-- ==== Sys2Proof/Word.lean ====
section
/-! DEFINITION. The widths of 00_scope.md rule R6: a byte, a word, a port word address, and the 4-byte key word of
41_aes_key_schedule.md rule R71. -/

namespace Sys2Proof

/-- An 8-bit unsigned value (R6); also a field element (R54). -/
abbrev Byte := BitVec 8

/-- A 32-bit unsigned value (R6). -/
abbrev Word := BitVec 32

/-- The port's 10-bit word address (R30, R41). -/
abbrev PortAddr := BitVec 10

/-- A 4-byte word of the key schedule, `t0` the byte at the lowest KEY index (R71). -/
structure KeyWord where
  t0 : Byte
  t1 : Byte
  t2 : Byte
  t3 : Byte
deriving DecidableEq, Repr

/-- The eight working registers of one compression (R97). -/
structure WorkRegs where
  a : Word
  b : Word
  c : Word
  d : Word
  e : Word
  f : Word
  g : Word
  h : Word
deriving DecidableEq, Repr

end Sys2Proof
end

