-- ==== Sys2Proof/Machine/Rom.lean ====
section
/-! DEFINITION. The ROM constants of 10_state.md rule R26: EXP and LOG (40_gf_field.md rule R59), RCON (41_aes_key_schedule.md
rule R70), K and IV (44_sha_compression.md rules R95, R96), as the spec prints them. That each table satisfies the rule that
defines it is stated in Certificates/Slice0/Obligations.lean. The SBOX ROM is the function `sbox` of Machine/Field.lean (R65:
a ROM and the function give the same values; Laws/Field.lean compares it with the printed table). -/

namespace Sys2Proof.Machine

/-- Entry `i` of a byte table printed 16 entries a row, the row's first entry in its most significant byte. -/
def romByte (rows : List Nat) (i : Nat) : Byte :=
  BitVec.ofNat 8 (rows.getD (i / 16) 0 >>> (8 * (15 - i % 16)))

/-- Entry `i` of a word table printed 8 entries a row, the row's first entry in its most significant word. -/
def romWord (rows : List Nat) (i : Nat) : Word :=
  BitVec.ofNat 32 (rows.getD (i / 8) 0 >>> (32 * (7 - i % 8)))

/-- The EXP table of R59, rows 0_ to F_. The last cell of row F_ is no entry: exponents are 0..254. -/
def expRows : List Nat :=
  [0x0103050f113355ff1a2e7296a1f81335,
   0x5fe13848d87395a4f702060a1e2266aa,
   0xe5345ce43759eb266abed97090abe631,
   0x53f5040c143c44cc4fd168b8d36eb2cd,
   0x4cd467a9e03b4dd762a6f10818287888,
   0x839eb9d06bbddc7f8198b3ce49db769a,
   0xb5c457f9103050f00b1d2769bbd661a3,
   0xfe192b7d8792adec2f7193aee92060a0] ++
  [0xfb163a4ed26db7c25de73256fa153f41,
   0xc35ee23d47c940c05bed2c749cbfda75,
   0x9fbad564acef2a7e829dbcdf7a8e8980,
   0x9bb6c158e82365afea256fb1c843c554,
   0xfc1f2163a5f407091b2d7799b0cb46ca,
   0x45cf4ade798b8691a8e33e42c651f30e,
   0x12365aee297b8d8c8f8a8594a7f20d17,
   0x394bdd7c8497a2fd1c246cb4c752f600]

/-- The LOG table of R59, rows 0_ to F_; `LOG[0x00]` is the sentinel 0. -/
def logRows : List Nat :=
  [0x0000190132021ac64bc71b6833eedf03,
   0x6404e00e348d81ef4c7108c8f8691cc1,
   0x7dc21db5f9b9276a4de4a6729ac90978,
   0x652f8a05210fe12412f082453593da8e,
   0x968fdbbd36d0ce94135cd2f140468338,
   0x66ddfd30bf068b62b325e29822889110,
   0x7e6e48c3a3b61e423a6b2854fa853dba,
   0x2b790a159b9f5eca4ed4ace5f373a757] ++
  [0xaf58a850f4ead6744faee9d5e7e6ade8,
   0x2cd7757aeb160bf559cb5fb09ca951a0,
   0x7f0cf66f17c449ecd8431f2da4767bb7,
   0xccbb3e5afb60b1863b52a16caa55299d,
   0x97b2879061bedcfcbc95cfcd373f5bd1,
   0x5339843c41a26d47142a9e5d56f2d3ab,
   0x441192d923202e89b47cb8267799e3a5,
   0x674aeddec531fe180d638c80c0f77007]

/-- `EXP[e]` for an exponent `e` in 0..254 (R59). -/
def expRom (e : Nat) : Byte := romByte expRows e

/-- `LOG[x]`, an exponent in 0..254 (R59). -/
def logRom (x : Byte) : Nat := (romByte logRows x.toNat).toNat

/-- `RCON[j]` for `j` in 1..7 (R70): the seven entries a 240-byte expansion uses. -/
def rcon (j : Nat) : Byte :=
  [0x01, 0x02, 0x04, 0x08, 0x10, 0x20, 0x40].getD (j - 1) 0

/-- The K table of R95, row `i` holding `K[8i..8i+7]`. -/
def kRows : List Nat :=
  [0x428a2f98_71374491_b5c0fbcf_e9b5dba5_3956c25b_59f111f1_923f82a4_ab1c5ed5,
   0xd807aa98_12835b01_243185be_550c7dc3_72be5d74_80deb1fe_9bdc06a7_c19bf174,
   0xe49b69c1_efbe4786_0fc19dc6_240ca1cc_2de92c6f_4a7484aa_5cb0a9dc_76f988da,
   0x983e5152_a831c66d_b00327c8_bf597fc7_c6e00bf3_d5a79147_06ca6351_14292967] ++
  [0x27b70a85_2e1b2138_4d2c6dfc_53380d13_650a7354_766a0abb_81c2c92e_92722c85,
   0xa2bfe8a1_a81a664b_c24b8b70_c76c51a3_d192e819_d6990624_f40e3585_106aa070,
   0x19a4c116_1e376c08_2748774c_34b0bcb5_391c0cb3_4ed8aa4a_5b9cca4f_682e6ff3,
   0x748f82ee_78a5636f_84c87814_8cc70208_90befffa_a4506ceb_bef9a3f7_c67178f2]

/-- The round constant `K[t]`, `t` in 0..63 (R95). -/
def kRom (t : Nat) : Word := romWord kRows t

/-- The IV table of R96. -/
def ivRows : List Nat :=
  [0x6a09e667_bb67ae85_3c6ef372_a54ff53a_510e527f_9b05688c_1f83d9ab_5be0cd19]

/-- The initial hash word `IV[j]`, `j` in 0..7 (R96). -/
def ivRom (j : Nat) : Word := romWord ivRows j

/-- The eight initial hash words `IV[0..7]` (R96). -/
@[irreducible] def iv : Vector Word 8 := Vector.ofFn fun j => ivRom j

end Sys2Proof.Machine
end

