-- ==== Sys2Proof/Machine/Field.lean ====
section
/-! DEFINITION. The GF(2^8) field unit's functions, 40_gf_field.md rules R54 to R65: addition, the mathematical product, the
exponent ring, the log/antilog multiplier, the inverse and the S-box. -/

namespace Sys2Proof.Machine

/-- Field addition, and subtraction: bitwise exclusive-or (R55). -/
def fAdd (a b : Byte) : Byte := a ^^^ b

/-- The 15-bit product of two polynomials over GF(2): the first loop of R56. -/
def polyProduct (a b : Byte) : BitVec 15 :=
  [0, 1, 2, 3, 4, 5, 6, 7].foldl
    (fun p i => if b.getLsbD i then p ^^^ (a.setWidth 15 <<< i) else p) 0

/-- Reduction of a 15-bit product by P(x) = 0x11B: the second loop of R56. -/
def polyReduce (p : BitVec 15) : BitVec 15 :=
  [14, 13, 12, 11, 10, 9, 8].foldl
    (fun p i => if p.getLsbD i then p ^^^ ((0x11B : BitVec 15) <<< (i - 8)) else p) p

/-- Field multiplication, defined mathematically (R56). -/
def polyMul (a b : Byte) : Byte := (polyReduce (polyProduct a b)).setWidth 8

/-- Doubling (R57). -/
def xtime (a : Byte) : Byte := polyMul a 0x02

/-- Addition in the exponent ring, the integers mod 255 (R58). -/
def eAdd (a b : Nat) : Nat := (a + b) % 255

/-- Subtraction in the exponent ring (R58). -/
def eSub (a b : Nat) : Nat := (255 + a - b) % 255

/-- The multiplier's function: the antilogarithm of the sum of the logarithms, masked to zero where an operand is zero
(R60). -/
def gfMul (a b : Byte) : Byte :=
  if a ≠ 0 ∧ b ≠ 0 then expRom (eAdd (logRom a) (logRom b)) else 0

/-- The field inverse (R62). It has no value at zero: `none` is the source's DivisionByZero (R67, R128). -/
def gfInv (a : Byte) : Option Byte :=
  if a = 0 then none else some (expRom (eSub (logRom 0x01) (logRom a)))

/-- The S-box inverse: total, with `Inv0(0) = 0` (R63). -/
def inv0 (a : Byte) : Byte := (gfInv a).getD 0

/-- A left rotation of a byte by `n`, 1 ≤ n ≤ 7 (R7, R64). -/
def rotl8 (x : Byte) (n : Nat) : Byte := (x <<< n) ||| (x >>> (8 - n))

/-- The affine step of the S-box (R64). -/
def affine (s : Byte) : Byte :=
  s ^^^ rotl8 s 1 ^^^ rotl8 s 2 ^^^ rotl8 s 3 ^^^ rotl8 s 4 ^^^ 0x63

/-- The S-box (R65). -/
def sbox (x : Byte) : Byte := affine (inv0 x)

end Sys2Proof.Machine
end

