-- ==== Sys2Proof/Machine/AesCore.lean ====
section
/-! DEFINITION. The AES-256 functions: the key expander of 41_aes_key_schedule.md rules R70 to R72 and the round transforms
of 42_aes_cipher.md rules R75 to R79, with their compositions (R84 to R86). They work on arrays whose elements are all
written; Machine/Operands.lean gets such arrays from the state. -/

namespace Sys2Proof.Machine

/-- `RotWord`: a left rotation of the 4-byte word by one byte (R71, 90_conflicts.md C8). -/
def rotWord (t : KeyWord) : KeyWord := ⟨t.t1, t.t2, t.t3, t.t0⟩

/-- `SubWord`: the S-box on each byte (R71). -/
def subWord (t : KeyWord) : KeyWord := ⟨sbox t.t0, sbox t.t1, sbox t.t2, sbox t.t3⟩

/-- `t ⊕ u`: bytewise field addition (R71). -/
def xorWord (t u : KeyWord) : KeyWord :=
  ⟨fAdd t.t0 u.t0, fAdd t.t1 u.t1, fAdd t.t2 u.t2, fAdd t.t3 u.t3⟩

/-- Byte `i` of an expanded key; 0 past its end, which no rule reads (log entry 14). -/
def keyByte (key : Vector Byte 240) (i : Nat) : Byte := key[i]?.getD 0

/-- The word `(KEY[i], …, KEY[i+3])`. -/
def keyWordAt (key : Vector Byte 240) (i : Nat) : KeyWord :=
  ⟨keyByte key i, keyByte key (i + 1), keyByte key (i + 2), keyByte key (i + 3)⟩

/-- Stores the word `t` at `KEY[i..i+3]`. -/
@[irreducible] def putKeyWord (key : Vector Byte 240) (i : Nat) (t : KeyWord) : Vector Byte 240 :=
  (((key.setIfInBounds i t.t0).setIfInBounds (i + 1) t.t1).setIfInBounds (i + 2) t.t2).setIfInBounds (i + 3) t.t3

/-- The working word of offset `i`, made from the previous four bytes `t` (the `if` chain of R72). The round-constant
index is 1 at i = 32 and goes up by one every 32 bytes, so it is i / 32. -/
def keyTemp (i : Nat) (t : KeyWord) : KeyWord :=
  if i % 32 = 0 then xorWord (subWord (rotWord t)) ⟨rcon (i / 32), 0, 0, 0⟩
  else if i % 32 = 16 then subWord t
  else t

/-- One pass of R72's loop: the word at byte offset `i`. -/
def keyExpandWord (key : Vector Byte 240) (i : Nat) : Vector Byte 240 :=
  putKeyWord key i (xorWord (keyWordAt key (i - 32)) (keyTemp i (keyWordAt key (i - 4))))

/-- The loop of R72 after its first `n` passes (i = 32, 36, …). -/
def keyExpandLoop (key : Vector Byte 240) : Nat → Vector Byte 240
  | 0 => key
  | n + 1 => keyExpandWord (keyExpandLoop key n) (32 + 4 * n)

/-- `KeyExpand` (R72): the raw key's 32 bytes to the 240-byte expanded key, in 52 passes. -/
@[irreducible] def keyExpand (raw : Vector Byte 32) : Vector Byte 240 :=
  keyExpandLoop (Vector.ofFn fun i => raw[i.val]?.getD 0) 52

/-- `SubBytes` (R76). -/
@[irreducible] def subBytes (st : Vector Byte 16) : Vector Byte 16 := Vector.ofFn fun k => sbox st[k]

/-- `ShiftRows` (R77): element (r, c) of the result, at index r + 4c, is element (r, (c + r) mod 4). -/
@[irreducible] def shiftRows (st : Vector Byte 16) : Vector Byte 16 :=
  Vector.ofFn fun k => st[k.val % 4 + 4 * ((k.val / 4 + k.val % 4) % 4)]'(by omega)

/-- Row `r` of the MixColumns matrix: (2, 3, 1, 1) rotated right by `r` positions (R78, 90_conflicts.md C6). -/
def mixRow : Nat → KeyWord
  | 0 => ⟨2, 3, 1, 1⟩
  | 1 => ⟨1, 2, 3, 1⟩
  | 2 => ⟨1, 1, 2, 3⟩
  | _ => ⟨3, 1, 1, 2⟩

/-- One row of the matrix times one column (R78). -/
def mixByte (m s : KeyWord) : Byte :=
  fAdd (fAdd (fAdd (gfMul m.t0 s.t0) (gfMul m.t1 s.t1)) (gfMul m.t2 s.t2)) (gfMul m.t3 s.t3)

/-- Column `c` of the state: STATE[4c..4c+3] (R21). -/
def stateColumn (st : Vector Byte 16) (c : Fin 4) : KeyWord :=
  ⟨st[4 * c.val], st[4 * c.val + 1], st[4 * c.val + 2], st[4 * c.val + 3]⟩

/-- `MixColumns` (R78), on columns 0..3. -/
@[irreducible] def mixColumns (st : Vector Byte 16) : Vector Byte 16 :=
  Vector.ofFn fun k => mixByte (mixRow (k.val % 4)) (stateColumn st ⟨k.val / 4, by omega⟩)

/-- `AddRoundKey` with the round key `rk` (R79). -/
@[irreducible] def addRoundKey (rk st : Vector Byte 16) : Vector Byte 16 :=
  Vector.ofFn fun k => fAdd st[k] rk[k]

/-- One full round (R84). -/
def fullRound (rk st : Vector Byte 16) : Vector Byte 16 :=
  addRoundKey rk (mixColumns (shiftRows (subBytes st)))

/-- The final round, with no MixColumns (R85). -/
def lastRound (rk st : Vector Byte 16) : Vector Byte 16 :=
  addRoundKey rk (shiftRows (subBytes st))

/-- The round key `RK(n) = KEY[16n..16n+15]` of an expanded key, n in 0..14 (R75). -/
@[irreducible] def roundKeyOf (key : Vector Byte 240) (n : Fin 15) : Vector Byte 16 :=
  Vector.ofFn fun k => key[16 * n.val + k.val]

/-- The state after `AddRoundKey(0)` and the first `n` full rounds, n in 0..13 (R86). -/
def encRounds (key : Vector Byte 240) (st : Vector Byte 16) : Nat → Vector Byte 16
  | 0 => addRoundKey (roundKeyOf key 0) st
  | n + 1 => fullRound (roundKeyOf key (Fin.ofNat 15 (n + 1))) (encRounds key st n)

/-- The whole 14-round encryption (R86). -/
@[irreducible] def encryptBlock (key : Vector Byte 240) (st : Vector Byte 16) : Vector Byte 16 :=
  lastRound (roundKeyOf key 14) (encRounds key st 13)

end Sys2Proof.Machine
end

