-- ==== Sys2Proof/Config.lean ====
section
/-! DEFINITION. What an implementation fixes and what the spec leaves free. A constant with no body is a value nothing in Lean
can evaluate: a statement about it holds whatever it is. -/

namespace Sys2Proof

/-- The free draw ANY of a read while BUSY or of a word element (00_scope.md R8, 93_implementation_defined.md U2, U3), applied
to the state's draw counter (log entry 3). -/
opaque Config.anyWord : Nat → Word

/-- The free draw ANY of a byte element (R8, U2), applied to the state's draw counter (log entry 3). -/
opaque Config.anyByte : Nat → Byte

/-- The ANY that a read of an unwritten word returns while IDLE (R25 (a), U1), applied to the state's draw counter, which no
such read advances, and to the word address (log entry 3). -/
opaque Config.anyIdleWord : Nat → PortAddr → Word

/-- The latency of each command less one (R147), a function of the operation code alone (R69, R148). -/
opaque Config.latencyLessOne : Byte → Nat

/-- LAT of an operation code: the OPEN parameter of R5 and R147, at least 1. No step depends on it (log
entry 8). -/
def Config.latency (opc : Byte) : Nat := Config.latencyLessOne opc + 1

/-- RRCORE_BASE divided by 4: the OPEN parameter of 20_memory.md R33 is a multiple of 4 (92_eei_decisions.md D4; log
entry 9). -/
opaque Config.baseWord : Nat

/-- RRCORE_BASE, the host address of byte offset 0x000 (R33). -/
def Config.rrcoreBase : Nat := 4 * Config.baseWord

/-- The host address of a byte offset of the register window (R33, R34). -/
def Config.hostAddress (off : Nat) : Nat := Config.rrcoreBase + off

end Sys2Proof
end

