-- ==== Sys2Proof/Syntax.lean ====
section
/-! DEFINITION. The commands of RRCORE: one constructor per row of the opcode map, 30_encoding.md rule R48. Operands are the
byte fields of rule R47; every other operand sits in the arrays of the state. -/

namespace Sys2Proof

/-- A decoded command. -/
inductive Instr where
  /-- NOP, 45_control_commands.md R104. -/
  | nop
  /-- GF_MUL a, b: 40_gf_field.md R66. -/
  | gfMul (a b : Byte)
  /-- GF_INV a: 40_gf_field.md R67. -/
  | gfInv (a : Byte)
  /-- GF_SBOX x: 40_gf_field.md R68. -/
  | gfSbox (x : Byte)
  /-- AES_KEYEXP, 41_aes_key_schedule.md R73. -/
  | aesKeyexp
  /-- AES_ENC, 42_aes_cipher.md R86. -/
  | aesEnc
  /-- AES_ARK n: 42_aes_cipher.md R80. -/
  | aesArk (n : Byte)
  /-- AES_SUB, 42_aes_cipher.md R81. -/
  | aesSub
  /-- AES_SHR, 42_aes_cipher.md R82. -/
  | aesShr
  /-- AES_MIX, 42_aes_cipher.md R83. -/
  | aesMix
  /-- AES_RND n: 42_aes_cipher.md R84. -/
  | aesRnd (n : Byte)
  /-- AES_LAST n: 42_aes_cipher.md R85. -/
  | aesLast (n : Byte)
  /-- SHA_INIT, 44_sha_compression.md R99. -/
  | shaInit
  /-- SHA_SCHED, 43_sha_schedule.md R91. -/
  | shaSched
  /-- SHA_COMP, 44_sha_compression.md R100. -/
  | shaComp
  /-- SHA_BLOCK, 44_sha_compression.md R101. -/
  | shaBlock
deriving DecidableEq, Repr

end Sys2Proof
end

