-- ==== Sys2Proof/WellFormed.lean ====
section
/-! DEFINITION. What 30_encoding.md rule R49 asks of a command beyond its fields' widths: a round index is 0..14. (GF_INV with
A = 0 is a legal encoding: its zero is a value error, found at issue.) -/

namespace Sys2Proof

/-- The command has an encoding that Decode accepts (R49, R51). -/
def Instr.wellFormed : Instr → Bool
  | .nop => true
  | .gfMul _ _ => true
  | .gfInv _ => true
  | .gfSbox _ => true
  | .aesKeyexp => true
  | .aesEnc => true
  | .aesArk n => n.toNat ≤ 14
  | .aesSub => true
  | .aesShr => true
  | .aesMix => true
  | .aesRnd n => n.toNat ≤ 14
  | .aesLast n => n.toNat ≤ 14
  | .shaInit => true
  | .shaSched => true
  | .shaComp => true
  | .shaBlock => true

end Sys2Proof
end

