-- ==== Sys2Proof/Decode.lean ====
section
/-! DEFINITION. Decode and encode of a command word, 30_encoding.md rules R46 to R53. -/

namespace Sys2Proof

/-- The verdict of Decode (R51). -/
inductive DecodeResult where
  /-- A command. -/
  | ok (i : Instr)
  /-- The OPC value is reserved (R50). -/
  | badOpcode
  /-- RSV or an unused field is not 0, or a round index is above 14 (R49). -/
  | badOperand
deriving DecidableEq, Repr

/-- Field OPC, bits 7:0 (R46). -/
def opcField (w : Word) : Byte := w.extractLsb' 0 8

/-- Field A, bits 15:8 (R46, R47). -/
def aField (w : Word) : Byte := w.extractLsb' 8 8

/-- Field B, bits 23:16 (R46, R47). -/
def bField (w : Word) : Byte := w.extractLsb' 16 8

/-- Field RSV, bits 31:24 (R46). -/
def rsvField (w : Word) : Byte := w.extractLsb' 24 8

/-- The command of an operation code with its operand fields, the opcode map of R48; `none` for a reserved code (R50). -/
def command (opc a b : Byte) : Option Instr :=
  match opc.toNat with
  | 0x00 => some .nop
  | 0x01 => some (.gfMul a b)
  | 0x02 => some (.gfInv a)
  | 0x03 => some (.gfSbox a)
  | 0x10 => some .aesKeyexp
  | 0x11 => some .aesEnc
  | 0x12 => some (.aesArk a)
  | 0x13 => some .aesSub
  | 0x14 => some .aesShr
  | 0x15 => some .aesMix
  | 0x16 => some (.aesRnd a)
  | 0x17 => some (.aesLast a)
  | 0x20 => some .shaInit
  | 0x21 => some .shaSched
  | 0x22 => some .shaComp
  | 0x23 => some .shaBlock
  | _ => none

/-- The operation codes that use field A (R51). -/
def usesA (opc : Byte) : Bool := [0x01, 0x02, 0x03, 0x12, 0x16, 0x17].contains opc

/-- The operation codes that use field B (R51). -/
def usesB (opc : Byte) : Bool := opc == 0x01

/-- The operation codes whose A is a round index (R49). -/
def takesRoundIndex (opc : Byte) : Bool := [0x12, 0x16, 0x17].contains opc

/-- Decode, the total function of R51: the checks in its order. -/
def decode (w : Word) : DecodeResult :=
  match command (opcField w) (aField w) (bField w) with
  | none => .badOpcode
  | some i =>
    if rsvField w ≠ 0 then .badOperand
    else if (usesA (opcField w) = false ∧ aField w ≠ 0) ∨ (usesB (opcField w) = false ∧ bField w ≠ 0) then .badOperand
    else if takesRoundIndex (opcField w) = true ∧ 14 < (aField w).toNat then .badOperand
    else .ok i

/-- The OPC value of a command (R48). -/
def Instr.opcode : Instr → Byte
  | .nop => 0x00
  | .gfMul _ _ => 0x01
  | .gfInv _ => 0x02
  | .gfSbox _ => 0x03
  | .aesKeyexp => 0x10
  | .aesEnc => 0x11
  | .aesArk _ => 0x12
  | .aesSub => 0x13
  | .aesShr => 0x14
  | .aesMix => 0x15
  | .aesRnd _ => 0x16
  | .aesLast _ => 0x17
  | .shaInit => 0x20
  | .shaSched => 0x21
  | .shaComp => 0x22
  | .shaBlock => 0x23

/-- The value of field A, 0 where R48 gives the command none. -/
def Instr.fieldA : Instr → Byte
  | .gfMul a _ => a
  | .gfInv a => a
  | .gfSbox x => x
  | .aesArk n => n
  | .aesRnd n => n
  | .aesLast n => n
  | .nop => 0
  | .aesKeyexp => 0
  | .aesEnc => 0
  | .aesSub => 0
  | .aesShr => 0
  | .aesMix => 0
  | .shaInit => 0
  | .shaSched => 0
  | .shaComp => 0
  | .shaBlock => 0

/-- The value of field B, 0 where R48 gives the command none. -/
def Instr.fieldB : Instr → Byte
  | .gfMul _ b => b
  | .nop => 0
  | .gfInv _ => 0
  | .gfSbox _ => 0
  | .aesKeyexp => 0
  | .aesEnc => 0
  | .aesArk _ => 0
  | .aesSub => 0
  | .aesShr => 0
  | .aesMix => 0
  | .aesRnd _ => 0
  | .aesLast _ => 0
  | .shaInit => 0
  | .shaSched => 0
  | .shaComp => 0
  | .shaBlock => 0

/-- The command word `{rsv, b, a, opc}` of four fields (R46). -/
def commandWord (rsv b a opc : Byte) : Word := rsv ++ b ++ a ++ opc

/-- `Encode(m, a, b) = {8'h00, b, a, OPC(m)}` (R53). -/
def encode (i : Instr) : Word := commandWord 0 i.fieldB i.fieldA i.opcode

/-- The instruction the decoder reads from a table row's word; a command is one 32-bit word (R52), so the bits above
`nbits` are the word's own zeros. -/
def decodeTableWord (nbits w : Nat) : Option Instr :=
  match decode (BitVec.ofNat 32 (w % 2 ^ nbits)) with
  | .ok i => some i
  | .badOpcode => none
  | .badOperand => none

end Sys2Proof
end

