-- ==== Sys2Proof/Machine/Arrays.lean ====
section
/-! DEFINITION. Arrays with written-flags (10_state.md rule R25): an element is `none` while its flag is clear, and what a
use of such an element does. The functions that build an array are irreducible, so that no unification unfolds one element
by element; their laws are in Laws/Arrays.lean. -/

namespace Sys2Proof.Machine

/-- What happens where an unwritten element is read (R25, 60_exceptions.md R129). The model's own field (log entry 2). -/
inductive UnwrittenUse where
  /-- The model stops with the model fault of R129. -/
  | report
  /-- As the hardware does: the read returns ANY, the command writes ANY into every element it writes (R25). -/
  | drawAny
deriving DecidableEq, Repr

/-- The treatment in State.reset: a model that meets either fault of R129 stops and reports it. A run of the hardware itself,
which cannot detect them (R25), starts from the same state with `drawAny`. -/
def unwrittenAtReset : UnwrittenUse := .report

/-- An array with every written-flag clear (R25, R136). -/
@[irreducible] def unwrittenArray {α : Type} (n : Nat) : Vector (Option α) n := Vector.ofFn fun _ => none

/-- An array whose elements are all written (R25). -/
@[irreducible] def written {α : Type} {n : Nat} (v : Vector α n) : Vector (Option α) n :=
  Vector.ofFn fun i => some v[i]

end Sys2Proof.Machine
end

