-- ==== Sys2Proof/Machine/State.lean ====
section
/-! DEFINITION. The state of RRCORE: the tuple of 10_state.md rule R11, and the model's own fields for the environment (the host's
transactions and the turns of the engine) and for free values. -/

namespace Sys2Proof.Machine

/-- STATUS.ERRCODE by name (60_exceptions.md R120). Codes 6 to 15 are never produced. -/
inductive ErrCode where
  | noError
  | divZero
  | badOpcode
  | badOperand
  | busyCmd
  | busyWrite
deriving DecidableEq, Repr

/-- PHASE and PENDING (R27): PENDING holds the decoded command exactly while PHASE = BUSY. -/
inductive Engine where
  /-- PHASE = IDLE, PENDING empty. -/
  | idle
  /-- PHASE = BUSY, PENDING = the command. -/
  | busy (pending : Instr)
deriving DecidableEq, Repr

/-- One atomic step of the model (20_memory.md R31, R32, R42), as the environment orders them. -/
inductive PortEvent where
  /-- MemRead of the word at a word address (R32). -/
  | read (addr : PortAddr)
  /-- MemWrite of a word at a word address (R32). -/
  | write (addr : PortAddr) (wdata : Word)
  /-- A clock edge with the rst input at 1 (70_reset_and_hazards.md R135). -/
  | rst
  /-- The engine's turn: the completion of the pending command, where there is one (R42, R123). -/
  | engine
deriving DecidableEq, Repr

/-- A region of the 4 KiB register window, with the word's index in it (20_memory.md R33). -/
inductive Region where
  | cmd
  | status
  | ctrl
  | errcmd
  | gfres
  | key (j : Fin 60)
  | st (j : Fin 4)
  | mblk (j : Fin 16)
  | h (j : Fin 8)
  | w (t : Fin 64)
  | reserved
deriving DecidableEq, Repr

/-- What a host read finds (R37, R38). -/
inductive ReadResult where
  /-- A word the spec gives. -/
  | value (v : Word)
  /-- ANY: the engine is busy and the offset is one of those R38 names. -/
  | any
  /-- The word holds an unwritten element and PHASE = IDLE (R25 (a)). -/
  | unwritten
deriving DecidableEq, Repr

/-- The machine (R11). An element of a data array is `none` while its written-flag is clear (R25): its content is then
unspecified and no rule uses it. -/
structure State where
  /-- LASTCMD (R17). -/
  lastcmd : Word
  /-- PHASE and PENDING (R27); STATUS.BUSY is PHASE = BUSY. -/
  engine : Engine
  /-- STATUS.DONE (R15). -/
  done : Bool
  /-- STATUS.ERRCODE (R15); STATUS.FAULT is computed from it. -/
  errcode : ErrCode
  /-- CTRL.IE (R16). -/
  ie : Bool
  /-- ERRCMD (R18). -/
  errcmd : Word
  /-- GFRES.RESULT (R19). -/
  gfres : Byte
  /-- KEY[0..239] with its written-flags (R20, R25). -/
  key : Vector (Option Byte) 240
  /-- STATE[0..15] with its written-flags (R21, R25). -/
  st : Vector (Option Byte) 16
  /-- MBLK[0..63] with its written-flags (R22, R25). -/
  mblk : Vector (Option Byte) 64
  /-- H[0..7] with its written-flags (R23, R25). -/
  h : Vector (Option Word) 8
  /-- W[0..63] with its written-flags (R24, R25). -/
  w : Vector (Option Word) 64
  /-- The model's own: what the environment will do, the next event first (log entry 1). -/
  env : List PortEvent
  /-- The port output rdata of the step just taken (R30): the word a read returned, `none` after any other step
  (log entry 4). -/
  rdata : Option Word
  /-- The model's own: a count that goes on with each free value drawn and with each event other than a read (log entry 3). -/
  draws : Nat
  /-- The model's own: what a use of an unwritten element does (log entry 2); every step keeps it. -/
  unwritten : UnwrittenUse
deriving DecidableEq, Repr

/-- The model faults of R129. Safe: the hardware goes on, with ANY values. -/
inductive Fault where
  /-- Raised by a host read of a data word that holds an unwritten element while PHASE = IDLE (R129, R25 (a)), where the
  state's `unwritten` is `report`. Safe. -/
  | unwrittenRead
  /-- Raised by the completion of a command that reads an unwritten element (R129, R25 (b)), where the state's `unwritten`
  is `report`. Safe. -/
  | unwrittenOperand
deriving DecidableEq, Repr

/-- The model's refusals. -/
inductive Refusal where
  /-- Raised by an arm of exec whose instruction has no meaning; no arm of this model does so. Safe. -/
  | notModelled (mnemonic : String)
deriving DecidableEq, Repr

/-- The machine right after reset (70_reset_and_hazards.md R136), with an empty environment. -/
def State.reset : State where
  lastcmd := 0
  engine := .idle
  done := false
  errcode := .noError
  ie := false
  errcmd := 0
  gfres := 0
  key := unwrittenArray 240
  st := unwrittenArray 16
  mblk := unwrittenArray 64
  h := written iv
  w := unwrittenArray 64
  env := []
  rdata := none
  draws := 0
  unwritten := unwrittenAtReset

end Sys2Proof.Machine
end

