-- ==== Sys2Proof/Machine/Flags.lean ====
section
/-! DEFINITION. Every flag of RRCORE and the words the host reads them in: STATUS (10_state.md rule R15), CTRL (R16), irq (R29). -/

namespace Sys2Proof.Machine

/-- STATUS.BUSY: PHASE = BUSY (R27). -/
def State.busy (s : State) : Bool :=
  match s.engine with
  | .idle => false
  | .busy _ => true

/-- The 4-bit code of an error (R120). -/
def ErrCode.bits : ErrCode → BitVec 4
  | .noError => 0
  | .divZero => 1
  | .badOpcode => 2
  | .badOperand => 3
  | .busyCmd => 4
  | .busyWrite => 5

/-- STATUS.FAULT: always equals (ERRCODE ≠ 0) (R15, R125). -/
def State.fault (s : State) : Bool := s.errcode != .noError

/-- `irq = CTRL.IE ∧ (STATUS.DONE ∨ STATUS.FAULT)` (R29, R130). -/
def State.irq (s : State) : Bool := s.ie && (s.done || s.fault)

/-- The word read at STATUS: `{24'b0, ERRCODE, 1'b0, FAULT, DONE, BUSY}` (R37). -/
def State.statusWord (s : State) : Word :=
  (0 : BitVec 24) ++ s.errcode.bits ++ (0 : BitVec 1) ++ BitVec.ofBool s.fault ++ BitVec.ofBool s.done ++ BitVec.ofBool s.busy

/-- The word read at CTRL: `{29'b0, 2'b00, IE}` (R37). -/
def State.ctrlWord (s : State) : Word :=
  (0 : BitVec 29) ++ (0 : BitVec 2) ++ BitVec.ofBool s.ie

end Sys2Proof.Machine
end

