-- ==== Sys2Proof/Machine/Operands.lean ====
section
/-! DEFINITION. The operand forms of RRCORE (30_encoding.md rule R47, 10_state.md rule R13): the round index, the arrays as commands read
them with their written-flags (R25), and the packing of array elements in port words (20_memory.md rules R33 to R35). -/

namespace Sys2Proof.Machine

/-- The elements of an array, where every one of them is written (R25). -/
def allWritten {α : Type} {n : Nat} (v : Vector (Option α) n) : Option (Vector α n) :=
  if h : ∀ i : Fin n, v[i].isSome then some (Vector.ofFn fun i => v[i].get (h i)) else none

/-- Two operands, where both are written. -/
def bothWritten {α β : Type} : Option α → Option β → Option (α × β)
  | some a, some b => some (a, b)
  | none, _ => none
  | some _, none => none

/-- A byte operand as a round index, 0..14 (R47, R49). -/
def roundIndex (n : Byte) : Option (Fin 15) :=
  if h : n.toNat ≤ 14 then some ⟨n.toNat, by omega⟩ else none

/-- The raw key KEY[0..31], the operand of AES_KEYEXP (R73). -/
def State.rawKey (s : State) : Option (Vector Byte 32) :=
  allWritten (Vector.ofFn fun i : Fin 32 => s.key[i.val])

/-- The round key `RK(n) = KEY[16n..16n+15]` (R20, R75). -/
def State.roundKey (s : State) (n : Fin 15) : Option (Vector Byte 16) :=
  allWritten (Vector.ofFn fun k : Fin 16 => s.key[16 * n.val + k.val])

/-- KEY[0..239], an operand of AES_ENC (R86). -/
def State.keyBytes (s : State) : Option (Vector Byte 240) := allWritten s.key

/-- STATE[0..15] (R21). -/
def State.stBytes (s : State) : Option (Vector Byte 16) := allWritten s.st

/-- MBLK[0..63] (R22). -/
def State.mblkBytes (s : State) : Option (Vector Byte 64) := allWritten s.mblk

/-- H[0..7] (R23). -/
def State.hWords (s : State) : Option (Vector Word 8) := allWritten s.h

/-- W[0..63] (R24). -/
def State.wWords (s : State) : Option (Vector Word 64) := allWritten s.w

/-- The byte offset of a word address: `{addr, 2'b00}` (R30). -/
def byteOffset (a : PortAddr) : Nat := 4 * a.toNat

/-- The address map (R33). -/
def regionOf (a : PortAddr) : Region :=
  if byteOffset a = 0x000 then .cmd
  else if byteOffset a = 0x004 then .status
  else if byteOffset a = 0x008 then .ctrl
  else if byteOffset a = 0x00C then .errcmd
  else if byteOffset a = 0x010 then .gfres
  else if h : 0x100 ≤ byteOffset a ∧ byteOffset a ≤ 0x1EC then .key ⟨(byteOffset a - 0x100) / 4, by omega⟩
  else if h : 0x200 ≤ byteOffset a ∧ byteOffset a ≤ 0x20C then .st ⟨(byteOffset a - 0x200) / 4, by omega⟩
  else if h : 0x300 ≤ byteOffset a ∧ byteOffset a ≤ 0x33C then .mblk ⟨(byteOffset a - 0x300) / 4, by omega⟩
  else if h : 0x400 ≤ byteOffset a ∧ byteOffset a ≤ 0x41C then .h ⟨(byteOffset a - 0x400) / 4, by omega⟩
  else if h : 0x500 ≤ byteOffset a ∧ byteOffset a ≤ 0x5FC then .w ⟨(byteOffset a - 0x500) / 4, by omega⟩
  else .reserved

/-- Whether a region is one of the data arrays, whose writes are dropped while BUSY (R39). -/
def Region.isData : Region → Bool
  | .cmd => false
  | .status => false
  | .ctrl => false
  | .errcmd => false
  | .gfres => false
  | .key _ => true
  | .st _ => true
  | .mblk _ => true
  | .h _ => true
  | .w _ => true
  | .reserved => false

/-- Byte lane `m` of a port word: bits 8m+7:8m (R34). -/
def byteLane (m : Nat) (v : Word) : Byte := v.extractLsb' (8 * m) 8

/-- Four bytes packed little-endian in a port word, `b0` in bits 7:0 (R34). -/
def packWord (b0 b1 b2 b3 : Byte) : Word := b3 ++ b2 ++ b1 ++ b0

/-- The packed word of four elements, where all are written (R34, R37). -/
def packWritten : Option Byte → Option Byte → Option Byte → Option Byte → Option Word
  | some b0, some b1, some b2, some b3 => some (packWord b0 b1 b2 b3)
  | _, _, _, _ => none

/-- A byte array after a host write of `v` to its word `j`: elements 4j..4j+3 hold the word's lanes and are written
(R34, R39). -/
@[irreducible] def putPacked {n : Nat} (arr : Vector (Option Byte) n) (j : Nat) (v : Word) : Vector (Option Byte) n :=
  Vector.ofFn fun i => if i.val / 4 = j then some (byteLane (i.val % 4) v) else arr[i]

/-- KEY after the expander wrote KEY[32..239] from `v`: KEY[0..31] are unchanged (R73). -/
@[irreducible] def withKeyTail (v : Vector Byte 240) (key : Vector (Option Byte) 240) : Vector (Option Byte) 240 :=
  Vector.ofFn fun i => if i.val < 32 then key[i] else some v[i]

/-- A word array after a host write of `v` to its word `j` (R35, R39). -/
@[irreducible] def putWord {n : Nat} (arr : Vector (Option Word) n) (j : Nat) (v : Word) : Vector (Option Word) n :=
  Vector.ofFn fun i => if i.val = j then some v else arr[i]

end Sys2Proof.Machine
end

