-- ==== Sys2Proof/Machine/Ops.lean ====
section
/-! DEFINITION. The shared operations on the state: error recording and its clearing (60_exceptions.md rules R124, R126), acceptance
(R122), the completion of a command (R123), writes of whole operand arrays with their written-flags (10_state.md rule R25), and
the reset effect (70_reset_and_hazards.md rule R136). -/

namespace Sys2Proof.Machine

/-- `raise Error(code, info)` (R124): the one form an exception takes here. It records the error where none is recorded
yet, and changes nothing else: no context is saved, no mode is switched, nothing is vectored. -/
def raiseError (code : ErrCode) (info : Word) (s : State) : State :=
  if s.errcode = .noError then { s with errcode := code, errcmd := info } else s

/-- CTRL.CLR_ERR (R106, R126): the way back from the FAULT state. -/
def clearError (s : State) : State := { s with errcode := .noError, errcmd := 0 }

/-- `Accept` (R122). -/
def accept (word : Word) (i : Instr) (s : State) : State :=
  { s with lastcmd := word, engine := .busy i, done := false }

/-- The end of every completion (R123): PENDING empty, PHASE idle, DONE set. -/
def retire (s : State) : State := { s with engine := .idle, done := true }

/-- `Reset()` (R136), for the rst input (R135) and for CTRL.SRST (R107). The model's own fields stay (log entry
12). -/
def resetCore (s : State) : State :=
  { State.reset with env := s.env, rdata := s.rdata, draws := s.draws, unwritten := s.unwritten }

/-- Writes all of STATE (the AES commands' output). -/
def putSt (v : Vector Byte 16) (s : State) : State := { s with st := written v }

/-- Writes KEY[32..239] from an expanded key; KEY[0..31] are unchanged (R73). -/
def putKeyTail (v : Vector Byte 240) (s : State) : State :=
  { s with key := withKeyTail v s.key }

/-- Writes all of H. -/
def putH (v : Vector Word 8) (s : State) : State := { s with h := written v }

/-- Writes all of W. -/
def putW (v : Vector Word 64) (s : State) : State := { s with w := written v }

/-- `n` free bytes, the draws from `draws` on. -/
@[irreducible] def anyBytes (n draws : Nat) : Vector Byte n := Vector.ofFn fun k => Config.anyByte (draws + k.val)

/-- `n` free words, the draws from `draws` on. -/
@[irreducible] def anyWords (n draws : Nat) : Vector Word n := Vector.ofFn fun k => Config.anyWord (draws + k.val)

/-- ANY in every byte of STATE, with the written-flags set (R25 (b)). -/
def anySt (s : State) : State := { putSt (anyBytes 16 s.draws) s with draws := s.draws + 16 }

/-- ANY in KEY[32..239], with the written-flags set (R25 (b), R73). -/
def anyKeyTail (s : State) : State := { putKeyTail (anyBytes 240 s.draws) s with draws := s.draws + 240 }

/-- ANY in every word of H, with the written-flags set (R25 (b)). -/
def anyH (s : State) : State := { putH (anyWords 8 s.draws) s with draws := s.draws + 8 }

/-- ANY in every word of W, with the written-flags set (R25 (b)). -/
def anyW (s : State) : State := { putW (anyWords 64 s.draws) s with draws := s.draws + 64 }

/-- The completion of a command with array operands: its effect where they are all written; where one is not, the model
fault UnwrittenOperand (R129) or, as the hardware, ANY in every element it writes (R25 (b)). -/
def completeWith {α : Type} (operands : Option α) (effect : α → State → State) (anyEffect : State → State) (s : State) :
    Host.Outcome State Fault Refusal :=
  match operands with
  | some x => .next (retire (effect x s))
  | none =>
    match s.unwritten with
    | .report => .fault .unwrittenOperand
    | .drawAny => .next (retire (anyEffect s))

/-- The completion of a command whose A is a round index: a word with A > 14 is rejected with BAD_OPERAND (R49, R120) and
has no other effect, so no pending command reaches that case (log entry 6). -/
def withRoundIndex (i : Instr) (n : Byte) (run : Fin 15 → State → Host.Outcome State Fault Refusal) (s : State) :
    Host.Outcome State Fault Refusal :=
  match roundIndex n with
  | some r => run r s
  | none => .next (raiseError .badOperand (encode i) s)

end Sys2Proof.Machine
end

