-- ==== Sys2Proof/Machine/Aes.lean ====
section
/-! DEFINITION. The meanings of the AES commands, 41_aes_key_schedule.md rule R73 and 42_aes_cipher.md rules R80 to R86. -/

namespace Sys2Proof.Machine

/-- AES_KEYEXP (R73): KEY[0..31] expanded in place. -/
def execAesKeyexp (s : State) : Host.Outcome State Fault Refusal :=
  completeWith s.rawKey (fun raw => putKeyTail (keyExpand raw)) anyKeyTail s

/-- AES_ENC (R86). -/
def execAesEnc (s : State) : Host.Outcome State Fault Refusal :=
  completeWith (bothWritten s.keyBytes s.stBytes) (fun x => putSt (encryptBlock x.1 x.2)) anySt s

/-- A command of STATE and the round key of index `n` (R80, R84, R85). -/
def roundCommand (i : Instr) (n : Byte) (f : Vector Byte 16 → Vector Byte 16 → Vector Byte 16) (s : State) :
    Host.Outcome State Fault Refusal :=
  withRoundIndex i n
    (fun r s => completeWith (bothWritten (s.roundKey r) s.stBytes) (fun x => putSt (f x.1 x.2)) anySt s) s

/-- A command of STATE alone (R81 to R83). -/
def stateCommand (f : Vector Byte 16 → Vector Byte 16) (s : State) : Host.Outcome State Fault Refusal :=
  completeWith s.stBytes (fun v => putSt (f v)) anySt s

/-- AES_ARK (R80). -/
def execAesArk (n : Byte) (s : State) : Host.Outcome State Fault Refusal := roundCommand (.aesArk n) n addRoundKey s

/-- AES_SUB (R81). -/
def execAesSub (s : State) : Host.Outcome State Fault Refusal := stateCommand subBytes s

/-- AES_SHR (R82). -/
def execAesShr (s : State) : Host.Outcome State Fault Refusal := stateCommand shiftRows s

/-- AES_MIX (R83). -/
def execAesMix (s : State) : Host.Outcome State Fault Refusal := stateCommand mixColumns s

/-- AES_RND (R84). -/
def execAesRnd (n : Byte) (s : State) : Host.Outcome State Fault Refusal := roundCommand (.aesRnd n) n fullRound s

/-- AES_LAST (R85). -/
def execAesLast (n : Byte) (s : State) : Host.Outcome State Fault Refusal := roundCommand (.aesLast n) n lastRound s

end Sys2Proof.Machine
end

