-- ==== Sys2Proof/Machine/Control.lean ====
section
/-! DEFINITION. The meaning of the control command, 45_control_commands.md rule R104. -/

namespace Sys2Proof.Machine

/-- NOP (R104): nothing beyond standard completion. -/
def execNop (s : State) : Host.Outcome State Fault Refusal := .next (retire s)

end Sys2Proof.Machine
end

