-- ==== Sys2Proof/Machine/Gf.lean ====
section
/-! DEFINITION. The meanings of the field commands, 40_gf_field.md rules R66 to R68. -/

namespace Sys2Proof.Machine

/-- Writes GFRES.RESULT (R19). -/
def putGfres (r : Byte) (s : State) : State := { s with gfres := r }

/-- GF_MUL (R66). -/
def execGfMul (a b : Byte) (s : State) : Host.Outcome State Fault Refusal :=
  .next (retire (putGfres (gfMul a b) s))

/-- GF_INV (R67). Of a zero element there is no inverse: the command word is rejected with DIV_ZERO and nothing else
changes (R121 step 5, R128), so no pending command reaches that case (log entry 6). -/
def execGfInv (a : Byte) (s : State) : Host.Outcome State Fault Refusal :=
  match gfInv a with
  | some r => .next (retire (putGfres r s))
  | none => .next (raiseError .divZero (encode (.gfInv a)) s)

/-- GF_SBOX (R68). -/
def execGfSbox (x : Byte) (s : State) : Host.Outcome State Fault Refusal :=
  .next (retire (putGfres (sbox x) s))

end Sys2Proof.Machine
end

