-- ==== Sys2Proof/Machine/ShaCore.lean ====
section
/-! DEFINITION. The SHA-256 functions: the message schedule of 43_sha_schedule.md rules R88 to R90 and the compression of
44_sha_compression.md rules R93, R97, R98, with the digest's byte order (R102). -/

namespace Sys2Proof.Machine

/-- A right rotation of a word by `n`, 1 ≤ n ≤ 31 (R88). -/
def rotr (x : Word) (n : Nat) : Word := (x >>> n) ||| (x <<< (32 - n))

/-- `σ0` (R89). -/
def smallSigma0 (x : Word) : Word := rotr x 7 ^^^ rotr x 18 ^^^ (x >>> 3)

/-- `σ1` (R89). -/
def smallSigma1 (x : Word) : Word := rotr x 17 ^^^ rotr x 19 ^^^ (x >>> 10)

/-- `Ch` (R93). -/
def ch (x y z : Word) : Word := (x &&& y) ^^^ (~~~x &&& z)

/-- `Maj` (R93). -/
def maj (x y z : Word) : Word := (x &&& y) ^^^ (x &&& z) ^^^ (y &&& z)

/-- `Σ0` (R93). -/
def bigSigma0 (x : Word) : Word := rotr x 2 ^^^ rotr x 13 ^^^ rotr x 22

/-- `Σ1` (R93). -/
def bigSigma1 (x : Word) : Word := rotr x 6 ^^^ rotr x 11 ^^^ rotr x 25

/-- The four bytes `{b0, b1, b2, b3}` as one word, `b0` in bits 31:24: the SHA unit's big-endian reading (R36, R90). -/
def beWord (b0 b1 b2 b3 : Byte) : Word := b0 ++ b1 ++ b2 ++ b3

/-- Word `t` of a schedule under construction; 0 past its end, which no rule reads (log entry 14). -/
def schedWord (w : Vector Word 64) (t : Nat) : Word := w[t]?.getD 0

/-- The first loop of R90: `W[0..15]` from the message block; the words the second loop will write are 0 here. -/
@[irreducible] def schedStart (m : Vector Byte 64) : Vector Word 64 :=
  Vector.ofFn fun t =>
    if h : t.val < 16 then beWord m[4 * t.val] m[4 * t.val + 1] m[4 * t.val + 2] m[4 * t.val + 3] else 0

/-- The recurrence of R90 for `W[t]`, t in 16..63, with addition mod 2^32. -/
def schedNext (w : Vector Word 64) (t : Nat) : Word :=
  smallSigma1 (schedWord w (t - 2)) + schedWord w (t - 7) + smallSigma0 (schedWord w (t - 15)) + schedWord w (t - 16)

/-- One pass of R90's second loop: the word `W[t]`. -/
@[irreducible] def schedPass (w : Vector Word 64) (t : Nat) : Vector Word 64 := w.setIfInBounds t (schedNext w t)

/-- The second loop of R90 after its first `n` passes (t = 16, 17, …). -/
def schedLoop (w : Vector Word 64) : Nat → Vector Word 64
  | 0 => w
  | n + 1 => schedPass (schedLoop w n) (16 + n)

/-- `Schedule` (R90): 64 message bytes to 64 words. -/
@[irreducible] def schedule (m : Vector Byte 64) : Vector Word 64 := schedLoop (schedStart m) 48

/-- One round with the round constant `k` and the schedule word `w` (R97). -/
def shaRound (k w : Word) (r : WorkRegs) : WorkRegs :=
  let t1 := r.h + bigSigma1 r.e + ch r.e r.f r.g + k + w
  let t2 := bigSigma0 r.a + maj r.a r.b r.c
  ⟨t1 + t2, r.a, r.b, r.c, r.d + t1, r.e, r.f, r.g⟩

/-- The working registers loaded from the running hash (R98). -/
def loadRegs (h : Vector Word 8) : WorkRegs := ⟨h[0], h[1], h[2], h[3], h[4], h[5], h[6], h[7]⟩

/-- The working registers after rounds 0..n-1 (R98). -/
def shaRounds (w : Vector Word 64) (r : WorkRegs) : Nat → WorkRegs
  | 0 => r
  | n + 1 => shaRound (kRom n) (schedWord w n) (shaRounds w r n)

/-- The feed-forward: the working registers added into the running hash (R98). -/
@[irreducible] def addBack (h : Vector Word 8) (r : WorkRegs) : Vector Word 8 :=
  #v[h[0] + r.a, h[1] + r.b, h[2] + r.c, h[3] + r.d, h[4] + r.e, h[5] + r.f, h[6] + r.g, h[7] + r.h]

/-- `Compress` (R98): 64 rounds and the feed-forward. -/
@[irreducible] def compress (h : Vector Word 8) (w : Vector Word 64) : Vector Word 8 :=
  addBack h (shaRounds w (loadRegs h) 64)

/-- The four bytes of a word, most significant first: `be32` of R102. -/
def be32 (x : Word) : List Byte :=
  [x.extractLsb' 24 8, x.extractLsb' 16 8, x.extractLsb' 8 8, x.extractLsb' 0 8]

/-- The digest's 32 bytes: `be32(H[0]) ‖ … ‖ be32(H[7])` (R102). -/
def digest (h : Vector Word 8) : List Byte := h.toList.flatMap be32

end Sys2Proof.Machine
end

