-- ==== Sys2Proof/Machine/Sha.lean ====
section
/-! DEFINITION. The meanings of the SHA-256 commands, 43_sha_schedule.md rule R91 and 44_sha_compression.md rules R99 to R101. -/

namespace Sys2Proof.Machine

/-- SHA_INIT (R99): H becomes IV. -/
def execShaInit (s : State) : Host.Outcome State Fault Refusal := .next (retire (putH iv s))

/-- SHA_SCHED (R91). -/
def execShaSched (s : State) : Host.Outcome State Fault Refusal :=
  completeWith s.mblkBytes (fun m => putW (schedule m)) anyW s

/-- SHA_COMP (R100): W as it stands. -/
def execShaComp (s : State) : Host.Outcome State Fault Refusal :=
  completeWith (bothWritten s.hWords s.wWords) (fun x => putH (compress x.1 x.2)) anyH s

/-- SHA_BLOCK (R101): the schedule of MBLK, left in W, and its compression. -/
def execShaBlock (s : State) : Host.Outcome State Fault Refusal :=
  completeWith (bothWritten s.hWords s.mblkBytes)
    (fun x s => putH (compress x.1 (schedule x.2)) (putW (schedule x.2) s)) (fun s => anyH (anyW s)) s

end Sys2Proof.Machine
end

