-- ==== Sys2Proof/Machine/Dispatch.lean ====
section
/-! DEFINITION. `Execute` of 60_exceptions.md rule R123 with the end of the completion: each command to its meaning. -/

namespace Sys2Proof.Machine

def exec (i : Instr) (s : State) : Host.Outcome State Fault Refusal :=
  match i with
  | .nop => Sys2Proof.Machine.execNop s
  | .gfMul a b => Sys2Proof.Machine.execGfMul a b s
  | .gfInv a => Sys2Proof.Machine.execGfInv a s
  | .gfSbox x => Sys2Proof.Machine.execGfSbox x s
  | .aesKeyexp => Sys2Proof.Machine.execAesKeyexp s
  | .aesEnc => Sys2Proof.Machine.execAesEnc s
  | .aesArk n => Sys2Proof.Machine.execAesArk n s
  | .aesSub => Sys2Proof.Machine.execAesSub s
  | .aesShr => Sys2Proof.Machine.execAesShr s
  | .aesMix => Sys2Proof.Machine.execAesMix s
  | .aesRnd n => Sys2Proof.Machine.execAesRnd n s
  | .aesLast n => Sys2Proof.Machine.execAesLast n s
  | .shaInit => Sys2Proof.Machine.execShaInit s
  | .shaSched => Sys2Proof.Machine.execShaSched s
  | .shaComp => Sys2Proof.Machine.execShaComp s
  | .shaBlock => Sys2Proof.Machine.execShaBlock s

end Sys2Proof.Machine
end

