-- ==== Sys2Proof/Machine/Port.lean ====
section
/-! DEFINITION. The host port: MemRead and MemWrite of 20_memory.md rules R32 to R41, the issue procedure of 60_exceptions.md rule
R121, and the control-register actions of 45_control_commands.md rules R105 to R108. -/

namespace Sys2Proof.Machine

/-- A word of a data array as a read finds it while PHASE = IDLE (R37). -/
def foundWord : Option Word → ReadResult
  | some v => .value v
  | none => .unwritten

/-- Reads of the engine's data return ANY while PHASE = BUSY (R38). -/
def unlessBusy (s : State) (r : ReadResult) : ReadResult := if s.busy then .any else r

/-- The bytes `4j..4j+3` of a byte array as a packed word (R34, R37). -/
def packedAt {n : Nat} (arr : Vector (Option Byte) n) (j : Nat) (h : 4 * j + 3 < n) : Option Word :=
  packWritten arr[4 * j] arr[4 * j + 1] arr[4 * j + 2] arr[4 * j + 3]

/-- What a host read of a region finds (R37 while IDLE, R38 while BUSY). -/
def peek (r : Region) (s : State) : ReadResult :=
  match r with
  | .cmd => .value s.lastcmd
  | .status => .value s.statusWord
  | .ctrl => .value s.ctrlWord
  | .errcmd => .value s.errcmd
  | .gfres => unlessBusy s (.value (s.gfres.setWidth 32))
  | .key j => unlessBusy s (foundWord (packedAt s.key j.val (by omega)))
  | .st j => unlessBusy s (foundWord (packedAt s.st j.val (by omega)))
  | .mblk j => unlessBusy s (foundWord (packedAt s.mblk j.val (by omega)))
  | .h j => unlessBusy s (foundWord s.h[j])
  | .w t => unlessBusy s (foundWord s.w[t])
  | .reserved => .value 0

/-- The read data of a transaction (R30). -/
def returnWord (v : Word) (s : State) : State := { s with rdata := some v }

/-- The read data ANY while BUSY: a fresh free word each time (R8, R40, U3). -/
def returnAny (s : State) : State := { s with rdata := some (Config.anyWord s.draws), draws := s.draws + 1 }

/-- `MemRead(off, 4)` (R32). An unwritten element, while PHASE = IDLE, is the model fault UnwrittenRead (R129) or, as the
hardware, ANY (R25 (a)): the same free word for every such read until something other than a read happens, since a read while
IDLE is idempotent (R40). -/
def hostRead (a : PortAddr) (s : State) : Host.Outcome State Fault Refusal :=
  match peek (regionOf a) s with
  | .value v => .next (returnWord v s)
  | .any => .next (returnAny s)
  | .unwritten =>
    match s.unwritten with
    | .report => .fault .unwrittenRead
    | .drawAny => .next (returnWord (Config.anyIdleWord s.draws a) s)

/-- The issue-time value check: GF_INV of zero (R67, R121 step 5). -/
def invertsZero (i : Instr) : Bool := i == .gfInv 0

/-- `Issue` (R121): the checks in its order; the first that applies decides. -/
def issue (word : Word) (s : State) : State :=
  if s.fault then s
  else if s.busy then raiseError .busyCmd word s
  else
    match decode word with
    | .badOpcode => raiseError .badOpcode word s
    | .badOperand => raiseError .badOperand word s
    | .ok i => if invertsZero i then raiseError .divZero word s else accept word i s

/-- A write of STATUS: DONE is write-1-to-clear (R108). -/
def writeStatus (v : Word) (s : State) : State :=
  if v.getLsbD 1 then { s with done := false } else s

/-- A write of CTRL: SRST takes precedence (R107); otherwise CLR_ERR where its bit is 1 (R106), and IE in every case
(R105). -/
def writeCtrl (v : Word) (s : State) : State :=
  if v.getLsbD 2 then resetCore s
  else if v.getLsbD 1 then { clearError s with ie := v.getLsbD 0 }
  else { s with ie := v.getLsbD 0 }

/-- A data word stored in its array (R34, R35); no other region stores anything. -/
def storeData (r : Region) (v : Word) (s : State) : State :=
  match r with
  | .key j => { s with key := putPacked s.key j.val v }
  | .st j => { s with st := putPacked s.st j.val v }
  | .mblk j => { s with mblk := putPacked s.mblk j.val v }
  | .h j => { s with h := putWord s.h j.val v }
  | .w t => { s with w := putWord s.w t.val v }
  | .cmd => s
  | .status => s
  | .ctrl => s
  | .errcmd => s
  | .gfres => s
  | .reserved => s

/-- A write of a data array: dropped with BUSY_WRITE while PHASE = BUSY, stored otherwise (R39). -/
def writeData (a : PortAddr) (v : Word) (s : State) : State :=
  if s.busy then raiseError .busyWrite (BitVec.ofNat 32 (byteOffset a)) s else storeData (regionOf a) v s

/-- `MemWrite(off, 4, v)` (R32, R39). -/
def hostWrite (a : PortAddr) (v : Word) (s : State) : State :=
  match regionOf a with
  | .cmd => issue v s
  | .status => writeStatus v s
  | .ctrl => writeCtrl v s
  | .errcmd => s
  | .gfres => s
  | .reserved => s
  | .key _ => writeData a v s
  | .st _ => writeData a v s
  | .mblk _ => writeData a v s
  | .h _ => writeData a v s
  | .w _ => writeData a v s

end Sys2Proof.Machine
end

