-- ==== Sys2Proof/Machine/Engine.lean ====
section
/-! DEFINITION. The two agents of 60_exceptions.md rule R133 and the order they move in (20_memory.md rule R42): one event is one
atomic step. -/

namespace Sys2Proof.Machine

/-- The count of draws before an event that is no read: what an unwritten word reads as may be another value after it (log
entry 3). -/
def newChoice (s : State) : State := { s with draws := s.draws + 1 }

/-- The engine's turn: the completion of the pending command (R123), enabled exactly when PHASE = BUSY; while IDLE
nothing happens. -/
def engineTurn (s : State) : Host.Outcome State Fault Refusal :=
  match s.engine with
  | .idle => .next s
  | .busy i => exec i (newChoice s)

/-- One event of the environment (R31, R42). -/
def playEvent (e : PortEvent) (s : State) : Host.Outcome State Fault Refusal :=
  match e with
  | .read a => hostRead a s
  | .write a v => .next (hostWrite a v (newChoice s))
  | .rst => .next (resetCore (newChoice s))
  | .engine => engineTurn s

/-- The state a step works on: the event taken from the environment, and no read data yet. -/
def takeEvent (rest : List PortEvent) (s : State) : State := { s with env := rest, rdata := none }

/-- The state in which the next step runs the command word `word` (log entry 5): just after the host's write of the word
was accepted (R122), with the engine's turn next, and with unwritten operands as the hardware has them, since the load
brings none. A word that Issue rejects is never pending; its write itself is the
next event, met by an idle core in which no error is recorded. -/
def placeWord (word : Word) (s : State) : State :=
  match decode word with
  | .ok i => if invertsZero i then placeWrite else { accept word i s with env := .engine :: s.env, unwritten := .drawAny }
  | .badOpcode => placeWrite
  | .badOperand => placeWrite
where
  placeWrite : State := { clearError s with engine := .idle, env := .write 0 word :: s.env }

end Sys2Proof.Machine
end

