-- ==== Sys2Proof/Machine/Step.lean ====
section
/-! DEFINITION. One step of the model: the environment's next event, and the engine's turn where the environment has no more to do,
so that a pending command always completes (the weak fairness of 20_memory.md rule R42). -/

namespace Sys2Proof.Machine

/-- One atomic step (R31, R42). -/
def step (s : State) : Host.Outcome State Fault Refusal :=
  match s.env with
  | [] => playEvent .engine (takeEvent [] s)
  | e :: rest => playEvent e (takeEvent rest s)

/-- `s` with the command word `w` where the next step runs it (log entry 5). -/
def State.withFetchWord (s : State) (nbits w : Nat) : State :=
  placeWord (BitVec.ofNat 32 (w % 2 ^ nbits)) s

end Sys2Proof.Machine
end

