-- ==== Sys2Proof/Machine/HostScript.lean ====
section
/-! DEFINITION. The host's side: the script lines of 30_encoding.md rule R53 and what the host does at each of them, its polling
loops included, and the host procedures of 46_host_procedures.md rules R109 to R119 as scripts. The host and the engine take
turns in any order (20_memory.md rule R42), which a list of turns gives (log entry 7). -/

namespace Sys2Proof.Machine

/-- How the host waits while BUSY reads 1 (R110). -/
inductive Waiting where
  /-- It reads STATUS again and again. -/
  | polling
  /-- It sleeps until irq is high, and reads STATUS again then (with CTRL.IE = 1). -/
  | irq
deriving DecidableEq, Repr

/-- A line of a host script (R53), with WaitIdle of R110. -/
inductive ScriptLine where
  /-- `wr OFF, VAL`. -/
  | wr (off : Nat) (v : Word)
  /-- `rd OFF -> name`. -/
  | rd (off : Nat) (name : String)
  /-- `assert name == VAL`: a check of the host, with no transaction. -/
  | check (name : String) (v : Word)
  /-- `wait`: `L: rd 0x004 -> s; if s[0] == 1 goto L`. -/
  | wait
  /-- WaitIdle (R110): the same loop, and then the abort HostFault where ERRCODE is not 0. -/
  | waitIdle (how : Waiting)
  /-- The sleep of a host that waits for irq (R110): over once irq is high (60_exceptions.md R130). -/
  | waitIrq
deriving DecidableEq, Repr

/-- Why the host's operation ended early. -/
inductive HostEnd where
  /-- An `assert` line found another value, or none (R53). -/
  | checkFailed (name : String)
  /-- `abort HostFault(code)` (R110). -/
  | hostFault (code : BitVec 4)
  /-- The line's offset is no word of the window, so that R32 and R41 give no transaction (DESIGN CHOICE, log entry 7). -/
  | noTransaction (off : Nat)
deriving DecidableEq, Repr

/-- A host in the middle of a script: the core, the lines still to run, the names bound so far, the latest first, and the
early end, if there was one. -/
structure HostRun where
  core : State
  lines : List ScriptLine
  names : List (String × Word)
  ended : Option HostEnd
deriving DecidableEq, Repr

/-- Whose turn it is (R133). -/
inductive Agent where
  | host
  | engine
deriving DecidableEq, Repr

/-- The word address of a byte offset (R30): of the 4-aligned offsets 0x000 to 0xFFC alone (R32, R41). -/
def offsetAddr (off : Nat) : Option PortAddr :=
  if off % 4 = 0 ∧ off ≤ 0xFFC then some (BitVec.ofNat 10 (off / 4)) else none

/-- The word address of STATUS, offset 0x004 (R33). -/
def statusAddr : PortAddr := 0x001

/-- `MNEMONIC ops`, as a line: `wr 0x000, Encode(MNEMONIC, ops)` (R53). -/
def commandLine (i : Instr) : ScriptLine := .wr 0x000 (encode i)

/-- `ack` (R53). -/
def ack : ScriptLine := .wr 0x004 0x00000002

/-- `clrerr` (R53). -/
def clrerr : ScriptLine := .wr 0x008 0x00000002

/-- `srst` (R53). -/
def srst : ScriptLine := .wr 0x008 0x00000004

/-- One event of the core, and what the host makes of the state after it. -/
def onCore (e : PortEvent) (next : State → HostRun → HostRun) (r : HostRun) : Host.Outcome HostRun Fault Refusal :=
  match step { r.core with env := e :: r.core.env } with
  | .next s => .next (next s { r with core := s })
  | .fault f => .fault f
  | .refused f => .refused f

/-- The word a read returned: every read that answers a next state returns one (else 0, log entry 14). -/
def State.readData (s : State) : Word := s.rdata.getD 0

/-- A read of the host, and what it makes of the word (R53). -/
def readThen (a : PortAddr) (use : Word → HostRun → HostRun) (r : HostRun) : Host.Outcome HostRun Fault Refusal :=
  onCore (.read a) (fun s => use s.readData) r

/-- The transaction of a line at a byte offset. Where the offset is no word of the window there is none, and the host's
operation ends with the core as it is: the spec gives such a line no meaning (DESIGN CHOICE, log entry 7). -/
def atOffset (off : Nat) (transact : PortAddr → HostRun → Host.Outcome HostRun Fault Refusal) (r : HostRun) :
    Host.Outcome HostRun Fault Refusal :=
  match offsetAddr off with
  | some a => transact a r
  | none => .next { r with ended := some (.noTransaction off) }

/-- STATUS.ERRCODE in a word read at STATUS: bits 7:4 (R15). -/
def errcodeField (s : Word) : BitVec 4 := s.extractLsb' 4 4

/-- A name bound to a word. -/
def HostRun.bind (r : HostRun) (name : String) (v : Word) : HostRun := { r with names := (name, v) :: r.names }

/-- What the host does where a poll reads BUSY = 1: its loop goes round, the line still to run (R53, R110), after a sleep until
irq where it waits so. -/
def goRound (how : Waiting) (r : HostRun) : HostRun :=
  match how with
  | .polling => r
  | .irq => { r with lines := .waitIrq :: r.lines }

/-- A poll of STATUS, bound to `s`: where BUSY reads 1 the loop goes round, otherwise it is left. -/
def poll (how : Waiting) (leave : Word → HostRun → HostRun) (r : HostRun) : Host.Outcome HostRun Fault Refusal :=
  readThen statusAddr (fun s r => if s.getLsbD 0 then goRound how (r.bind "s" s) else leave s (r.bind "s" s)) r

/-- WaitIdle after its loop: the abort HostFault where ERRCODE is not 0 (R110). -/
def abortOnFault (rest : List ScriptLine) (s : Word) (r : HostRun) : HostRun :=
  if errcodeField s = 0 then { r with lines := rest } else { r with ended := some (.hostFault (errcodeField s)) }

/-- The host's move at a line, the first of those `r` has still to run; `rest` are the lines after it. -/
def runLine (line : ScriptLine) (rest : List ScriptLine) (r : HostRun) : Host.Outcome HostRun Fault Refusal :=
  match line with
  | .wr off v => atOffset off (fun a => onCore (.write a v) fun _ r => { r with lines := rest }) r
  | .rd off name => atOffset off (fun a => readThen a fun w r => { r.bind name w with lines := rest }) r
  | .check name v =>
    .next (if r.names.lookup name = some v then { r with lines := rest } else { r with ended := some (.checkFailed name) })
  | .wait => poll .polling (fun _ r => { r with lines := rest }) r
  | .waitIdle how => poll how (abortOnFault rest) r
  | .waitIrq => .next (if r.core.irq then { r with lines := rest } else r)

/-- The host's turn; a host that has ended, or has run its script, does nothing. -/
def hostTurn (r : HostRun) : Host.Outcome HostRun Fault Refusal :=
  match r.ended, r.lines with
  | none, line :: rest => runLine line rest r
  | none, [] => .next r
  | some _, _ => .next r

/-- One turn. -/
def takeTurn (who : Agent) (r : HostRun) : Host.Outcome HostRun Fault Refusal :=
  match who with
  | .host => hostTurn r
  | .engine => onCore .engine (fun _ r => r) r

/-- A script's run under a list of turns (R42). -/
def runTurns : List Agent → HostRun → Host.Outcome HostRun Fault Refusal
  | [], r => .next r
  | who :: turns, r =>
    match takeTurn who r with
    | .next r => runTurns turns r
    | .fault f => .fault f
    | .refused f => .refused f

/-- A script's start on a core. -/
def startScript (lines : List ScriptLine) (s : State) : HostRun := ⟨s, lines, [], none⟩

/-- The last `n` words bound to a name, in the order they were read. -/
def HostRun.lastWords (r : HostRun) (name : String) (n : Nat) : List Word :=
  (((r.names.filter (·.1 = name)).take n).map (·.2)).reverse

/-- What an operation of the host returns: nothing until its script has run to the end, and nothing at all where it aborted
("`abort` ends the host operation with no result", R110). -/
def HostRun.result {α : Type} (r : HostRun) (value : α) : Option α :=
  if r.ended = none ∧ r.lines = [] then some value else none

/-- `Issue(word)` of the host, for any 32-bit word: WaitIdle, the write of CMD, WaitIdle (R110). -/
def issueLines (how : Waiting) (word : Word) : List ScriptLine := [.waitIdle how, .wr 0x000 word, .waitIdle how]

/-- Issue of a command. -/
def issueCommand (how : Waiting) (i : Instr) : List ScriptLine := issueLines how (encode i)

/-- Host bytes as port words, four bytes a word by `le32` (R109). -/
def wordsOfBytes : List Byte → List Word
  | b0 :: b1 :: b2 :: b3 :: rest => packWord b0 b1 b2 b3 :: wordsOfBytes rest
  | _ => []

/-- Writes of consecutive words from an offset on. -/
def writeWords (off : Nat) : List Word → List ScriptLine
  | [] => []
  | v :: vs => .wr off v :: writeWords (off + 4) vs

/-- Reads of `n` consecutive words from an offset on, each bound to the name `w`. -/
def readWords (off : Nat) : Nat → List ScriptLine
  | 0 => []
  | n + 1 => .rd off "w" :: readWords (off + 4) n

/-- The four bytes of a port word, lane 0 first (R34). -/
def bytesOfWord (v : Word) : List Byte := [0, 1, 2, 3].map fun m => byteLane m v

/-- `CheckLen` (R119): `none` is the host's LengthError abort, made before any transaction. -/
def checkLen (bytes : List Byte) (n : Nat) (lines : List ScriptLine) : Option (List ScriptLine) :=
  if bytes.length = n then some lines else none

/-- `expand_key` (R111). -/
def expandKeyLines (how : Waiting) (key : List Byte) : Option (List ScriptLine) :=
  checkLen key 240 (writeWords 0x100 (wordsOfBytes (key.take 32)) ++ issueCommand how .aesKeyexp ++ readWords 0x120 52)

/-- The host's key buffer after `expand_key`: its first 32 bytes, and the 52 words read (R111). -/
def expandedKeyOf (key : List Byte) (r : HostRun) : Option (List Byte) :=
  r.result (key.take 32 ++ (r.lastWords "w" 52).flatMap bytesOfWord)

/-- `encrypt_block` (R112); `keyLoaded` is the host's bookkeeping of what KEY holds. -/
def encryptBlockLines (how : Waiting) (st key : List Byte) (keyLoaded : Bool) : Option (List ScriptLine) :=
  (checkLen st 16
    ((if keyLoaded then [] else writeWords 0x100 (wordsOfBytes key)) ++ writeWords 0x200 (wordsOfBytes st) ++
      issueCommand how .aesEnc ++ readWords 0x200 4)).bind (checkLen key 240)

/-- The host's state buffer after `encrypt_block`: the four words read (R112). -/
def encryptedBlockOf (r : HostRun) : Option (List Byte) := r.result ((r.lastWords "w" 4).flatMap bytesOfWord)

/-- `pad_448` (R113): 0x80 and (55 - l) mod 64 zero bytes. -/
def pad448 (msg : List Byte) : List Byte :=
  msg ++ (0x80 : Byte) :: List.replicate ((55 + 64 - msg.length % 64) % 64) 0

/-- The host's part of the Hasher: the pending bytes and the total byte count (R114). -/
structure Hasher where
  buf : List Byte
  total : Nat
deriving DecidableEq, Repr

/-- A call of the Hasher: the Hasher as it stands once the call has run to its end, and the call's script. -/
abbrev HasherCall := Hasher × List ScriptLine

/-- The Hasher after a call. After a call that aborted the spec does not give it (91_not_in_source.md §H), and the model names
none (DESIGN CHOICE, log entry 17). -/
def hasherAfter (call : HasherCall) (r : HostRun) : Option Hasher := r.result call.1

/-- `Hasher::new()` (R115). The Hasher is that of a call that did not abort (`hasherAfter`). -/
def hasherNew (how : Waiting) : HasherCall := (⟨[], 0⟩, issueCommand how .shaInit)

/-- `Block`: one 64-byte block written and compressed (R116). -/
def blockLines (how : Waiting) (b : List Byte) : List ScriptLine :=
  writeWords 0x300 (wordsOfBytes b) ++ issueCommand how .shaBlock

/-- The loop of `extend` (R116) in at most `fuel` passes: the tail that stays pending, and the transactions. -/
def fullBlocks (how : Waiting) : Nat → List Byte → List Byte × List ScriptLine
  | 0, buf => (buf, [])
  | fuel + 1, buf =>
    if 64 ≤ buf.length then
      ((fullBlocks how fuel (buf.drop 64)).1, blockLines how (buf.take 64) ++ (fullBlocks how fuel (buf.drop 64)).2)
    else (buf, [])

/-- `extend` (R116). A pass takes 64 bytes, so as many passes as bytes are enough. The Hasher is that of a call that did not
abort (`hasherAfter`). -/
def hasherExtend (how : Waiting) (hs : Hasher) (bytes : List Byte) : HasherCall :=
  (⟨(fullBlocks how (hs.buf ++ bytes).length (hs.buf ++ bytes)).1, hs.total + bytes.length⟩,
    (fullBlocks how (hs.buf ++ bytes).length (hs.buf ++ bytes)).2)

/-- `be64`: the 8 bytes of a number below 2^64, most significant first (R117). -/
def be64 (x : Nat) : List Byte := [7, 6, 5, 4, 3, 2, 1, 0].map fun m => BitVec.ofNat 8 (x / 256 ^ m)

/-- The final block or blocks of a message (R117). -/
def flushTail (hs : Hasher) : List Byte := pad448 hs.buf ++ be64 (8 * hs.total % 2 ^ 64)

/-- `flush()` (R117). The Hasher is that of a call that did not abort (`hasherAfter`). -/
def hasherFlush (how : Waiting) (hs : Hasher) : HasherCall :=
  (⟨[], 0⟩, (fullBlocks how (flushTail hs).length (flushTail hs)).2 ++ readWords 0x400 8 ++ issueCommand how .shaInit)

/-- The digest that `flush()` returns: the eight words read, each most significant byte first (R117, R102). -/
def digestOf (r : HostRun) : Option (List Byte) := r.result ((r.lastWords "w" 8).flatMap be32)

/-- `hash(bytes)` (R118). -/
def hashLines (how : Waiting) (bytes : List Byte) : List ScriptLine :=
  (hasherNew how).2 ++ (hasherExtend how (hasherNew how).1 bytes).2 ++
    (hasherFlush how (hasherExtend how (hasherNew how).1 bytes).1).2

end Sys2Proof.Machine
end

