-- ==== Sys2Proof/Safety.lean ====
section
/-! DEFINITION. What counts as a safe run, in the terms the statements use: the operands a command reads (60_exceptions.md rule R129), the
consistency of a state, and runs of several commands or steps. -/

namespace Sys2Proof.Machine

/-- The operands of R129's list are written: KEY[0..31] for AES_KEYEXP; STATE and KEY for AES_ENC; STATE and RK(n) for
AES_ARK, AES_RND and AES_LAST; STATE for AES_SUB, AES_SHR and AES_MIX; MBLK for SHA_SCHED; H and W for SHA_COMP; H and
MBLK for SHA_BLOCK; none for the others. -/
def operandsWritten (i : Instr) (s : State) : Prop :=
  match i with
  | .nop => True
  | .gfMul _ _ => True
  | .gfInv _ => True
  | .gfSbox _ => True
  | .aesKeyexp => ∀ k : Fin 240, k.val < 32 → s.key[k].isSome
  | .aesEnc => (∀ k : Fin 240, s.key[k].isSome) ∧ ∀ k : Fin 16, s.st[k].isSome
  | .aesArk n => roundKeyWritten n s ∧ ∀ k : Fin 16, s.st[k].isSome
  | .aesSub => ∀ k : Fin 16, s.st[k].isSome
  | .aesShr => ∀ k : Fin 16, s.st[k].isSome
  | .aesMix => ∀ k : Fin 16, s.st[k].isSome
  | .aesRnd n => roundKeyWritten n s ∧ ∀ k : Fin 16, s.st[k].isSome
  | .aesLast n => roundKeyWritten n s ∧ ∀ k : Fin 16, s.st[k].isSome
  | .shaInit => True
  | .shaSched => ∀ k : Fin 64, s.mblk[k].isSome
  | .shaComp => (∀ j : Fin 8, s.h[j].isSome) ∧ ∀ t : Fin 64, s.w[t].isSome
  | .shaBlock => (∀ j : Fin 8, s.h[j].isSome) ∧ ∀ k : Fin 64, s.mblk[k].isSome
where
  /-- Every byte of RK(n) is written. -/
  roundKeyWritten (n : Byte) (s : State) : Prop :=
    ∀ k : Fin 240, k.val / 16 = n.toNat → s.key[k].isSome

/-- What ERRCMD holds beside each ERRCODE (R120). -/
def errInfoMatches (code : ErrCode) (info : Word) : Prop :=
  match code with
  | .noError => info = 0
  | .divZero => info = 0x00000002
  | .badOpcode => decode info = .badOpcode
  | .badOperand => decode info = .badOperand
  | .busyCmd => True
  | .busyWrite => ∃ a : PortAddr, (regionOf a).isData = true ∧ info = BitVec.ofNat 32 (byteOffset a)

/-- The consistency of a state: true at reset and kept by every step. -/
structure State.Consistent (s : State) : Prop where
  /-- LASTCMD is a word that Issue accepts (R17, R121); at reset it is NOP's. -/
  lastcmd_accepted : ∃ i, decode s.lastcmd = .ok i ∧ i ≠ .gfInv 0
  /-- The pending command is LASTCMD decoded (R122), and DONE is 0 while BUSY (R108). -/
  pending_is_lastcmd : ∀ i, s.engine = .busy i → decode s.lastcmd = .ok i ∧ s.done = false
  /-- ERRCMD holds what R120 says beside ERRCODE. -/
  error_info : errInfoMatches s.errcode s.errcmd
  /-- Every word of H is written, from reset on (R23, R25). -/
  h_written : ∀ j : Fin 8, s.h[j].isSome

/-- The completions of several commands, one after the other. -/
def execAll : List Instr → State → Host.Outcome State Fault Refusal
  | [], s => .next s
  | i :: rest, s =>
    match exec i s with
    | .next t => execAll rest t
    | .fault f => .fault f
    | .refused r => .refused r

/-- The run of `n` steps ends in a next state: it meets no model fault. -/
def RunsSafely (n : Nat) (s : State) : Prop := ∃ t, Host.Core.run Sys2Proof.core n s = .next t

end Sys2Proof.Machine
end

