-- ==== Sys2Proof/Certificates/Slice0/Obligations.lean ====
section
/-! DEFINITION. The statements for the provers. Each docstring names the rule of the spec it formalises. In the statements about
commands, the new state is written out in full, so that whatever is not named is unchanged. A statement about `step` also says
what becomes of the model's own fields, which no rule of the spec names: `env` loses its first event (log entry 1), `rdata` is
the word read or `none` (log entry 4), `draws` goes on with every free draw and with every event other than a read (log entry
3), `unwritten` stays (log entry 2). -/

open Sys2Proof Sys2Proof.Machine

/-! ### Encoding and decoding (30_encoding.md) -/

/-- Decoding an encoded command gives the command back, with every operand at every value its encoding admits. -/
def Obligations.DecodeInvertsEncode : Prop :=
  ∀ i : Instr, i.wellFormed = true → decode (encode i) = .ok i

/-- A word that decodes to a command is that command's one encoding, and the command is well formed. -/
def Obligations.EncodeInvertsDecode : Prop :=
  ∀ (w : Word) (i : Instr), decode w = .ok i → encode i = w ∧ i.wellFormed = true

/-- R49: a word that matches a row's match under its mask is that command; the three round-index rows also check A ≤ 14. The
rows are those of R48: match, mask, whether A is a round index, and the command of fields A and B. Derived from R48 and R49.
-/
def Obligations.MatchAndMaskGiveTheCommand : Prop :=
  ∀ row ∈ ([(0x00000000, 0xFFFFFFFF, false, fun _ _ => .nop),
      (0x00000001, 0xFF0000FF, false, fun a b => .gfMul a b),
      (0x00000002, 0xFFFF00FF, false, fun a _ => .gfInv a),
      (0x00000003, 0xFFFF00FF, false, fun a _ => .gfSbox a),
      (0x00000010, 0xFFFFFFFF, false, fun _ _ => .aesKeyexp),
      (0x00000011, 0xFFFFFFFF, false, fun _ _ => .aesEnc),
      (0x00000012, 0xFFFF00FF, true, fun a _ => .aesArk a),
      (0x00000013, 0xFFFFFFFF, false, fun _ _ => .aesSub)] ++
     [(0x00000014, 0xFFFFFFFF, false, fun _ _ => .aesShr),
      (0x00000015, 0xFFFFFFFF, false, fun _ _ => .aesMix),
      (0x00000016, 0xFFFF00FF, true, fun a _ => .aesRnd a),
      (0x00000017, 0xFFFF00FF, true, fun a _ => .aesLast a),
      (0x00000020, 0xFFFFFFFF, false, fun _ _ => .shaInit),
      (0x00000021, 0xFFFFFFFF, false, fun _ _ => .shaSched),
      (0x00000022, 0xFFFFFFFF, false, fun _ _ => .shaComp),
      (0x00000023, 0xFFFFFFFF, false, fun _ _ => .shaBlock)] : List (Word × Word × Bool × (Byte → Byte → Instr))),
    ∀ w : Word,
      (∃ i, decode w = .ok i ∧ i = row.2.2.2 (w.extractLsb' 8 8) (w.extractLsb' 16 8)) ↔
        w &&& row.2.1 = row.1 ∧ (row.2.2.1 = true → (w.extractLsb' 8 8).toNat ≤ 14)

/-- R51: the verdict on every word, by its four bytes as numbers. The operation code decides BadOpcode alone; then RSV,
an unused field and a round index decide BadOperand; every other word is the command with those fields. -/
def Obligations.DecodeVerdicts : Prop :=
  ∀ w : Word,
    let opc := w.toNat % 256
    let a := w.toNat / 256 % 256
    let b := w.toNat / 65536 % 256
    let rsv := w.toNat / 16777216
    let known := opc ∈ [0x00, 0x01, 0x02, 0x03] ∨ (0x10 ≤ opc ∧ opc ≤ 0x17) ∨ (0x20 ≤ opc ∧ opc ≤ 0x23)
    let broken := rsv ≠ 0 ∨ (opc ∉ [0x01, 0x02, 0x03, 0x12, 0x16, 0x17] ∧ a ≠ 0) ∨ (opc ≠ 0x01 ∧ b ≠ 0) ∨
      (opc ∈ [0x12, 0x16, 0x17] ∧ 14 < a)
    (¬known → decode w = .badOpcode) ∧
      (known → broken → decode w = .badOperand) ∧
      (known → ¬broken → ∃ i : Instr, decode w = .ok i ∧ i.opcode.toNat = opc ∧ i.fieldA.toNat = a ∧ i.fieldB.toNat = b)

/-- Words written out from the spec's encodings (R53 and 95_test_vectors.md §2.6). -/
def Obligations.SampleWordsDecode : Prop :=
  decode 0x00835701 = .ok (.gfMul 0x57 0x83) ∧ decode 0x00000E12 = .ok (.aesArk 14) ∧
    decode 0x00000116 = .ok (.aesRnd 1) ∧ decode 0x00000023 = .ok .shaBlock ∧ decode 0x00000000 = .ok .nop ∧
    decode 0x00000002 = .ok (.gfInv 0) ∧ decode 0x00000100 = .badOperand ∧ decode 0x01000004 = .badOpcode ∧
    decode 0x00000F17 = .badOperand

/-! ### The field unit (40_gf_field.md) -/

/-- R59: EXP and LOG are the tables that repeated multiplication by 0x03 builds, and they are inverse to each other. That
they are inverse bijections the spec marks as its own inference: “[derived: by exhaustive evaluation in tools/ref_model.py]”.
-/
def Obligations.LogTablesAreDiscreteLogarithms : Prop :=
  expRom 0 = 0x01 ∧ (∀ e, e < 254 → expRom (e + 1) = polyMul (expRom e) 0x03) ∧ polyMul (expRom 254) 0x03 = 0x01 ∧
    (∀ e, e < 255 → logRom (expRom e) = e) ∧ (∀ x : Byte, x ≠ 0 → expRom (logRom x) = x) ∧ logRom 0x00 = 0

/-- R61: the log/antilog multiplier is field multiplication; it is commutative and associative, distributes over field
addition, and has the unit 0x01. The spec marks this as its own inference (R61: “[derived: by exhaustive evaluation of rule
R60 against rule R56 …]”). -/
def Obligations.GfMulIsFieldMultiplication : Prop :=
  (∀ a b : Byte, gfMul a b = polyMul a b) ∧ (∀ a b : Byte, gfMul a b = gfMul b a) ∧
    (∀ a b c : Byte, gfMul (gfMul a b) c = gfMul a (gfMul b c)) ∧
    (∀ a b c : Byte, gfMul a (b ^^^ c) = gfMul a b ^^^ gfMul a c) ∧ ∀ a : Byte, gfMul a 0x01 = a

/-- R57: doubling, as the shift with its conditional reduction. The spec marks the equality as its own inference (“[derived:
from rule R56]”). -/
def Obligations.XtimeIsShiftAndReduce : Prop :=
  ∀ a : Byte, xtime a = (a <<< 1) ^^^ (if a.getLsbD 7 then 0x1B else 0x00)

/-- R66: GF_MUL completes in every state and leaves in GFRES the product of the polynomials modulo P(x); nothing else changes
but the standard completion. R66 writes GFMul of R60; that it is the polynomial product the spec marks as its own inference
(R61: “[derived: by exhaustive evaluation of rule R60 against rule R56 …]”). -/
def Obligations.GfMulWritesTheProduct : Prop :=
  ∀ (a b : Byte) (s : State),
    exec (.gfMul a b) s = .next { s with gfres := polyMul a b, engine := .idle, done := true } ∧
      ((a = 0 ∨ b = 0) → polyMul a b = 0)

/-- R62: GF_INV of a nonzero element completes in every state with the antilogarithm of the negated logarithm, and that is
the element's inverse. That the product is 0x01 the spec marks as its own inference (R62: “[derived: by exhaustive evaluation
…]”). -/
def Obligations.GfInvWritesTheInverse : Prop :=
  ∀ (a : Byte) (s : State), a ≠ 0 →
    exec (.gfInv a) s =
        .next { s with gfres := expRom ((255 - logRom a) % 255), engine := .idle, done := true } ∧
      gfMul a (expRom ((255 - logRom a) % 255)) = 0x01

/-- What exec answers on the operands that Issue rejects, which no pending command of a reachable state holds (log entry 6):
it records the error of R120 with the command word, where no error is recorded yet, and changes nothing else. -/
def Obligations.RejectedOperandsRecordTheirError : Prop :=
  ∀ (s : State) (n : Byte) (i : Instr),
    (s.errcode = .noError → exec (.gfInv 0) s = .next { s with errcode := .divZero, errcmd := 0x00000002 }) ∧
      (s.errcode ≠ .noError → exec (.gfInv 0) s = .next s) ∧
      (14 < n.toNat → i ∈ [.aesArk n, .aesRnd n, .aesLast n] →
        (s.errcode = .noError → exec i s = .next { s with errcode := .badOperand, errcmd := encode i }) ∧
          (s.errcode ≠ .noError → exec i s = .next s))

/-- R68, R65: GF_SBOX completes in every state with the affine step (R64) of Inv0 (R63), the inverse with zero for zero. That
the inverse of a nonzero x gives 0x01 with x the spec marks as its own inference (R62: “[derived: by exhaustive evaluation
…]”). -/
def Obligations.GfSboxWritesTheAffineInverse : Prop :=
  ∀ (x : Byte) (s : State), ∃ i : Byte,
    (x = 0 → i = 0) ∧ (x ≠ 0 → gfMul x i = 0x01) ∧
      exec (.gfSbox x) s =
        .next { s with
          gfres := i ^^^ i.rotateLeft 1 ^^^ i.rotateLeft 2 ^^^ i.rotateLeft 3 ^^^ i.rotateLeft 4 ^^^ 0x63
          engine := .idle
          done := true }

/-- R65: the S-box is a permutation with no fixed and no opposite fixed point. The spec marks these properties as its own
inference (R65: “[derived: by exhaustive evaluation …]”). -/
def Obligations.SboxIsAPermutationWithoutFixedPoints : Prop :=
  (∀ x : Byte, sbox x = affine (inv0 x)) ∧ (∀ x y : Byte, sbox x = sbox y → x = y) ∧
    ∀ x : Byte, sbox x ≠ x ∧ sbox x ≠ x ^^^ 0xFF

/-! ### The AES unit (41_aes_key_schedule.md, 42_aes_cipher.md) -/

/-- R70: the round constants are the doubling sequence from 0x01; the ROM holds seven. That seven are enough the spec marks
as its own inference (R70: “[derived: from rule R72]”). -/
def Obligations.RoundConstantsDouble : Prop :=
  rcon 1 = 0x01 ∧ (∀ j, 1 ≤ j → j < 7 → rcon (j + 1) = xtime (rcon j)) ∧
    [rcon 1, rcon 2, rcon 3, rcon 4, rcon 5, rcon 6, rcon 7] = [0x01, 0x02, 0x04, 0x08, 0x10, 0x20, 0x40]

/-- R72: AES_KEYEXP completes wherever KEY[0..31] is written. It keeps KEY[0..31], writes KEY[32..239], and every new
byte is the byte 32 positions earlier XORed with the working word of the three cases of the rule; nothing else changes but
the standard completion. -/
def Obligations.KeyExpansionRecurrence : Prop :=
  ∀ (s : State) (raw : Vector Byte 32), (∀ k : Fin 32, s.key[k.val] = some raw[k]) →
    ∃ key : Vector Byte 240,
      exec .aesKeyexp s = .next { s with key := written key, engine := .idle, done := true } ∧
        (∀ k : Fin 32, key[k.val] = raw[k]) ∧
        ∀ n, n < 52 →
          let i := 32 + 4 * n
          let k := keyByte key
          (i % 32 = 0 →
            k i = k (i - 32) ^^^ (sbox (k (i - 3)) ^^^ rcon (i / 32)) ∧ k (i + 1) = k (i - 31) ^^^ sbox (k (i - 2)) ∧
              k (i + 2) = k (i - 30) ^^^ sbox (k (i - 1)) ∧ k (i + 3) = k (i - 29) ^^^ sbox (k (i - 4))) ∧
          (i % 32 = 16 → ∀ m, m < 4 → k (i + m) = k (i - 32 + m) ^^^ sbox (k (i - 4 + m))) ∧
          (i % 32 ≠ 0 → i % 32 ≠ 16 → ∀ m, m < 4 → k (i + m) = k (i - 32 + m) ^^^ k (i - 4 + m))

/-- R73's corner case: a second AES_KEYEXP leaves KEY as it was after the first. The spec marks it as its own inference
(“[derived: from rule R72]”). -/
def Obligations.KeyExpansionIsIdempotent : Prop :=
  ∀ s t : State, operandsWritten .aesKeyexp s → exec .aesKeyexp s = .next t →
    exec .aesKeyexp t = .next t

/-- R79: AES_ARK n completes wherever STATE and RK(n) are written, and XORs RK(n) into STATE byte by byte. -/
def Obligations.AddRoundKeyXorsTheRoundKey : Prop :=
  ∀ (s : State) (n : Fin 15) (st rk : Vector Byte 16), s.st = written st →
    (∀ k : Fin 16, s.key[16 * n.val + k.val] = some rk[k]) →
      exec (.aesArk (BitVec.ofNat 8 n.val)) s =
        .next { s with st := written (Vector.ofFn fun k => st[k] ^^^ rk[k]), engine := .idle, done := true }

/-- R76: AES_SUB completes wherever STATE is written, and replaces every byte by its S-box value. -/
def Obligations.SubBytesAppliesTheSbox : Prop :=
  ∀ (s : State) (st : Vector Byte 16), s.st = written st →
    exec .aesSub s =
      .next { s with st := written (Vector.ofFn fun k => sbox st[k]), engine := .idle, done := true }

/-- R77: AES_SHR completes wherever STATE is written, and permutes its bytes as the rule's index list says. The list is the
spec's own inference from the rule's formula (“[derived: from the formula]”). -/
def Obligations.ShiftRowsPermutesTheBytes : Prop :=
  ∀ (s : State) (st : Vector Byte 16), s.st = written st →
    exec .aesShr s =
      .next { s with
        st := written #v[st[0], st[5], st[10], st[15], st[4], st[9], st[14], st[3], st[8], st[13], st[2], st[7],
          st[12], st[1], st[6], st[11]]
        engine := .idle
        done := true }

/-- R78: AES_MIX completes wherever STATE is written, and multiplies each column by the rule's matrix. -/
def Obligations.MixColumnsMultipliesByTheMatrix : Prop :=
  ∀ (s : State) (st : Vector Byte 16), s.st = written st →
    ∃ out : Vector Byte 16,
      exec .aesMix s = .next { s with st := written out, engine := .idle, done := true } ∧
        ∀ c : Fin 4,
          let s0 := st[4 * c.val]
          let s1 := st[4 * c.val + 1]
          let s2 := st[4 * c.val + 2]
          let s3 := st[4 * c.val + 3]
          out[4 * c.val] = gfMul 2 s0 ^^^ gfMul 3 s1 ^^^ s2 ^^^ s3 ∧
            out[4 * c.val + 1] = s0 ^^^ gfMul 2 s1 ^^^ gfMul 3 s2 ^^^ s3 ∧
            out[4 * c.val + 2] = s0 ^^^ s1 ^^^ gfMul 2 s2 ^^^ gfMul 3 s3 ∧
            out[4 * c.val + 3] = gfMul 3 s0 ^^^ s1 ^^^ s2 ^^^ gfMul 2 s3

/-- AES_RND n completes wherever STATE and RK(n) are written, and does what AES_SUB, AES_SHR, AES_MIX and AES_ARK n do one
after the other (R84). -/
def Obligations.FullRoundIsItsFourSteps : Prop :=
  ∀ (s : State) (n : Byte), n.toNat ≤ 14 → operandsWritten (.aesRnd n) s →
    ∃ t, exec (.aesRnd n) s = .next t ∧ execAll [.aesSub, .aesShr, .aesMix, .aesArk n] s = .next t

/-- AES_LAST n completes wherever STATE and RK(n) are written, and does what AES_SUB, AES_SHR and AES_ARK n do one after
the other (R85). -/
def Obligations.LastRoundIsItsThreeSteps : Prop :=
  ∀ (s : State) (n : Byte), n.toNat ≤ 14 → operandsWritten (.aesLast n) s →
    ∃ t, exec (.aesLast n) s = .next t ∧ execAll [.aesSub, .aesShr, .aesArk n] s = .next t

/-- AES_ENC completes wherever STATE and KEY are written, with the result of the 15-command sequence AES_ARK 0; AES_RND 1; …;
AES_RND 13; AES_LAST 14 (R86). The spec marks the equality as its own inference (R86: “[derived: from rules R80, R84, R85]”).
-/
def Obligations.EncryptionIsFifteenCommands : Prop :=
  ∀ s : State, operandsWritten .aesEnc s →
    ∃ t, exec .aesEnc s = .next t ∧
      execAll [.aesArk 0, .aesRnd 1, .aesRnd 2, .aesRnd 3, .aesRnd 4, .aesRnd 5, .aesRnd 6, .aesRnd 7, .aesRnd 8,
        .aesRnd 9, .aesRnd 10, .aesRnd 11, .aesRnd 12, .aesRnd 13, .aesLast 14] s = .next t

/-- Two corner cases of R80 and R82: AES_ARK n twice, and AES_SHR four times, restore STATE. Of AES_SHR the spec marks it as
its own inference (“[derived: from rule R77]”). -/
def Obligations.SelfInverseSteps : Prop :=
  (∀ (s t : State) (n : Byte), n.toNat ≤ 14 → operandsWritten (.aesArk n) s →
      execAll [.aesArk n, .aesArk n] s = .next t → t.st = s.st) ∧
    ∀ s t : State, operandsWritten .aesShr s →
      execAll [.aesShr, .aesShr, .aesShr, .aesShr] s = .next t → t.st = s.st

/-! ### The SHA-256 unit (43_sha_schedule.md, 44_sha_compression.md) -/

/-- R95 and R96: each K is ⌊∛(p · 2^96)⌋ mod 2^32 for the prime p of R94 with its index, and each IV is ⌊√(p · 2^64)⌋ mod
2^32 for the first eight primes. The exact integer formula of K is the spec's own inference (R95: “[derived: ⌊frac(y)·2^32⌋ =
⌊y·2^32⌋ mod 2^32 …]”). -/
def Obligations.ShaConstantsAreRootsOfPrimes : Prop :=
  let primes : List Nat :=
    [2, 3, 5, 7, 11, 13, 17, 19, 23, 29, 31, 37, 41, 43, 47, 53, 59, 61, 67, 71, 73, 79, 83, 89, 97, 101, 103, 107, 109,
      113, 127, 131] ++
    [137, 139, 149, 151, 157, 163, 167, 173, 179, 181, 191, 193, 197, 199, 211, 223, 227, 229, 233, 239, 241, 251, 257,
      263, 269, 271, 277, 281, 283, 293, 307, 311]
  (∀ t, t < 64 → ∃ c : Nat,
      c ^ 3 ≤ primes.getD t 0 * 2 ^ 96 ∧ primes.getD t 0 * 2 ^ 96 < (c + 1) ^ 3 ∧ kRom t = BitVec.ofNat 32 c) ∧
    ∀ j, j < 8 → ∃ c : Nat,
      c ^ 2 ≤ primes.getD j 0 * 2 ^ 64 ∧ primes.getD j 0 * 2 ^ 64 < (c + 1) ^ 2 ∧ ivRom j = BitVec.ofNat 32 c

/-- SHA_INIT completes in every state with the eight initial hash words in H (R96, R99). -/
def Obligations.ShaInitLoadsTheInitialHash : Prop :=
  ∀ s : State,
    exec .shaInit s =
      .next { s with
        h := written #v[0x6a09e667, 0xbb67ae85, 0x3c6ef372, 0xa54ff53a, 0x510e527f, 0x9b05688c, 0x1f83d9ab, 0x5be0cd19]
        engine := .idle
        done := true }

/-- R90: SHA_SCHED completes wherever MBLK is written. W[0..15] are the block's big-endian words, and W[16..63] satisfy
the recurrence; nothing else changes but the standard completion. -/
def Obligations.ScheduleRecurrence : Prop :=
  ∀ (s : State) (m : Vector Byte 64), s.mblk = written m →
    ∃ w : Vector Word 64,
      exec .shaSched s = .next { s with w := written w, engine := .idle, done := true } ∧
        (∀ t : Fin 16, w[t.val] = m[4 * t.val] ++ m[4 * t.val + 1] ++ m[4 * t.val + 2] ++ m[4 * t.val + 3]) ∧
        ∀ t, 16 ≤ t → t < 64 →
          let x := schedWord w (t - 15)
          let y := schedWord w (t - 2)
          schedWord w t =
            (y.rotateRight 17 ^^^ y.rotateRight 19 ^^^ (y >>> 10)) + schedWord w (t - 7) +
              (x.rotateRight 7 ^^^ x.rotateRight 18 ^^^ (x >>> 3)) + schedWord w (t - 16)

/-- R97 and R98: SHA_COMP completes wherever H and W are written. The working registers start from H, every round is the
rule's, and the registers after round 63 are added into H; nothing else changes but the standard completion. Which registers
each function takes, and the load from H, the spec gives “[from general knowledge, not in source]” (R97, R98; log entry 13).
-/
def Obligations.CompressionRounds : Prop :=
  ∀ (s : State) (h : Vector Word 8) (w : Vector Word 64), s.h = written h → s.w = written w →
    ∃ r : Nat → WorkRegs,
      r 0 = ⟨h[0], h[1], h[2], h[3], h[4], h[5], h[6], h[7]⟩ ∧
        (∀ t, t < 64 →
          let p := r t
          let t1 := p.h + (p.e.rotateRight 6 ^^^ p.e.rotateRight 11 ^^^ p.e.rotateRight 25) +
            ((p.e &&& p.f) ^^^ (~~~p.e &&& p.g)) + kRom t + schedWord w t
          let t2 := (p.a.rotateRight 2 ^^^ p.a.rotateRight 13 ^^^ p.a.rotateRight 22) +
            ((p.a &&& p.b) ^^^ (p.a &&& p.c) ^^^ (p.b &&& p.c))
          r (t + 1) = ⟨t1 + t2, p.a, p.b, p.c, p.d + t1, p.e, p.f, p.g⟩) ∧
        exec .shaComp s =
          .next { s with
            h := written #v[h[0] + (r 64).a, h[1] + (r 64).b, h[2] + (r 64).c, h[3] + (r 64).d, h[4] + (r 64).e,
              h[5] + (r 64).f, h[6] + (r 64).g, h[7] + (r 64).h]
            engine := .idle
            done := true }

/-- SHA_BLOCK completes wherever H and MBLK are written, and does what SHA_SCHED and SHA_COMP do one after the other, W
included (R101). -/
def Obligations.BlockIsScheduleThenCompression : Prop :=
  ∀ s : State, operandsWritten .shaBlock s →
    ∃ t, exec .shaBlock s = .next t ∧ execAll [.shaSched, .shaComp] s = .next t

/-! ### Completion of a command (60_exceptions.md, 45_control_commands.md) -/

/-- NOP completes in every state: BUSY and DONE are its only effects at completion (R104). -/
def Obligations.NopOnlyCompletes : Prop :=
  ∀ s : State, exec .nop s = .next { s with engine := .idle, done := true }

/-- R123: at the engine's turn, the environment's or, where the environment has no more to do, the next step, a step is the
execution of the pending command on the state as it stands. With nothing pending it changes nothing. -/
def Obligations.EngineTurnRunsThePendingCommand : Prop :=
  ∀ (s : State) (rest : List PortEvent), (s.env = .engine :: rest ∨ s.env = [] ∧ rest = []) →
    (∀ i, s.engine = .busy i → step s = exec i { s with env := rest, rdata := none, draws := s.draws + 1 }) ∧
      (s.engine = .idle → step s = .next { s with env := rest, rdata := none })

/-- A command word written to CMD of an idle core with no error recorded, and the engine's turn after it: the first step
accepts the word (LASTCMD, PENDING, BUSY, DONE), the second executes exactly the instruction the word decodes to. -/
def Obligations.WrittenWordIsAcceptedThenExecuted : Prop :=
  ∀ (s : State) (word : Word) (i : Instr) (rest : List PortEvent),
    s.env = .write 0 word :: .engine :: rest → s.engine = .idle → s.errcode = .noError →
    decode word = .ok i → i ≠ .gfInv 0 →
      ∃ t, step s = .next t ∧
        t = { s with
          lastcmd := word
          engine := .busy i
          done := false
          env := .engine :: rest
          rdata := none
          draws := s.draws + 1 } ∧
        step t = exec i { t with env := rest, draws := t.draws + 1 }

/-- The state that withFetchWord makes for an accepted command word (log entry 5): the next step executes the command the
word decodes to, on a state in which it was just accepted (R122) and unwritten elements are as the hardware has them. -/
def Obligations.PlacedWordRunsNext : Prop :=
  ∀ (s : State) (word : Word) (i : Instr), decode word = .ok i → i ≠ .gfInv 0 →
    step (s.withFetchWord 32 word.toNat) =
      exec i { s with
        lastcmd := word
        engine := .busy i
        done := false
        rdata := none
        draws := s.draws + 1
        unwritten := .drawAny }

/-- R120, R123: an accepted command whose operands are written completes, and completion raises no error and does not look
at ERRCODE. -/
def Obligations.AcceptedCommandsCompleteWithoutError : Prop :=
  ∀ (i : Instr) (s : State), i.wellFormed = true → i ≠ .gfInv 0 → operandsWritten i s →
    ∃ t, exec i s = .next t ∧ t.engine = .idle ∧ t.done = true ∧ t.errcode = s.errcode ∧ t.errcmd = s.errcmd ∧
      ∀ (c : ErrCode) (info : Word),
        exec i { s with errcode := c, errcmd := info } = .next { t with errcode := c, errcmd := info }

/-- R12: what a completion leaves unchanged, for every accepted command. Only AES_KEYEXP writes KEY, and it leaves
KEY[0..31]; only the AES cipher commands write STATE; no command writes MBLK; only the SHA commands write H and W; only the
field commands write GFRES; LASTCMD, ERRCODE, ERRCMD and IE are never written. -/
def Obligations.CompletionChangesOnlyItsOutputs : Prop :=
  ∀ (i : Instr) (s t : State), i.wellFormed = true → i ≠ .gfInv 0 → exec i s = .next t →
    t.engine = .idle ∧ t.done = true ∧ t.lastcmd = s.lastcmd ∧ t.errcode = s.errcode ∧ t.errcmd = s.errcmd ∧
      t.ie = s.ie ∧ t.mblk = s.mblk ∧ t.env = s.env ∧ t.rdata = s.rdata ∧ t.unwritten = s.unwritten ∧
      (∀ k : Fin 32, t.key[k.val] = s.key[k.val]) ∧
      (i ≠ .aesKeyexp → t.key = s.key) ∧
      ((∀ n, i ∉ [.aesEnc, .aesArk n, .aesSub, .aesShr, .aesMix, .aesRnd n, .aesLast n]) → t.st = s.st) ∧
      (i ∉ [.shaInit, .shaComp, .shaBlock] → t.h = s.h) ∧
      (i ∉ [.shaSched, .shaBlock] → t.w = s.w) ∧
      ((∀ a b, i ∉ [.gfMul a b, .gfInv a, .gfSbox a]) → t.gfres = s.gfres)

/-- R129: where the model reports unwritten elements, a completion whose command reads one stops with UnwrittenOperand; one
whose operands are all written does not. The reset state reports them, and so does every state of a run from it, since no
step changes the treatment. (The field `unwritten`: log entry 2.) -/
def Obligations.UnwrittenOperandIsReported : Prop :=
  (∀ (i : Instr) (s : State), i.wellFormed = true → s.unwritten = .report →
      (¬operandsWritten i s ↔ exec i s = .fault .unwrittenOperand)) ∧
    State.reset.unwritten = .report ∧ ∀ s t : State, step s = .next t → t.unwritten = s.unwritten

/-- R25 (b): where it does not, the command completes, and every element it writes is written and holds ANY: a free draw of
its own, the next ones of the state's count (log entries 2 and 3). For SHA_BLOCK the draws of W come first. -/
def Obligations.UnwrittenOperandDrawsAny : Prop :=
  ∀ (i : Instr) (s : State), i.wellFormed = true → s.unwritten = .drawAny → ¬operandsWritten i s →
    ∃ t, exec i s = .next t ∧ t.engine = .idle ∧ t.done = true ∧
      (i = .aesKeyexp →
        (∀ k : Fin 240, 32 ≤ k.val → t.key[k] = some (Config.anyByte (s.draws + k.val))) ∧ t.draws = s.draws + 240) ∧
      ((∃ n, i ∈ [.aesEnc, .aesArk n, .aesSub, .aesShr, .aesMix, .aesRnd n, .aesLast n]) →
        (∀ k : Fin 16, t.st[k] = some (Config.anyByte (s.draws + k.val))) ∧ t.draws = s.draws + 16) ∧
      (i = .shaSched →
        (∀ k : Fin 64, t.w[k] = some (Config.anyWord (s.draws + k.val))) ∧ t.draws = s.draws + 64) ∧
      (i = .shaComp →
        (∀ j : Fin 8, t.h[j] = some (Config.anyWord (s.draws + j.val))) ∧ t.draws = s.draws + 8) ∧
      (i = .shaBlock →
        (∀ k : Fin 64, t.w[k] = some (Config.anyWord (s.draws + k.val))) ∧
          (∀ j : Fin 8, t.h[j] = some (Config.anyWord (s.draws + 64 + j.val))) ∧ t.draws = s.draws + 72)

/-! ### Issue, errors and the control registers (60_exceptions.md, 45_control_commands.md) -/

/-- R121 and R122: what a write of CMD does, the checks in the rule's order. -/
def Obligations.IssueChecksInOrder : Prop :=
  ∀ (s : State) (word : Word) (rest : List PortEvent), s.env = .write 0 word :: rest →
    let u : State := { s with env := rest, rdata := none, draws := s.draws + 1 }
    (s.errcode ≠ .noError → step s = .next u) ∧
      (s.errcode = .noError → s.engine ≠ .idle →
        step s = .next { u with errcode := .busyCmd, errcmd := word }) ∧
      (s.errcode = .noError → s.engine = .idle →
        (decode word = .badOpcode → step s = .next { u with errcode := .badOpcode, errcmd := word }) ∧
        (decode word = .badOperand → step s = .next { u with errcode := .badOperand, errcmd := word }) ∧
        (decode word = .ok (.gfInv 0) → step s = .next { u with errcode := .divZero, errcmd := word }) ∧
        ∀ i, decode word = .ok i → i ≠ .gfInv 0 →
          step s = .next { u with lastcmd := word, engine := .busy i, done := false })

/-- A data write while BUSY is dropped; the first error is recorded, with the write's byte offset, and a later one is not
(the last row of R39, R124). The data words are those of R33. -/
def Obligations.DataWriteWhileBusyIsDropped : Prop :=
  ∀ (s : State) (a : PortAddr) (v : Word) (rest : List PortEvent),
    s.env = .write a v :: rest → s.engine ≠ .idle →
    (let off := 4 * a.toNat
     (0x100 ≤ off ∧ off ≤ 0x1EC) ∨ (0x200 ≤ off ∧ off ≤ 0x20C) ∨ (0x300 ≤ off ∧ off ≤ 0x33C) ∨
       (0x400 ≤ off ∧ off ≤ 0x41C) ∨ (0x500 ≤ off ∧ off ≤ 0x5FC)) →
      (s.errcode = .noError →
        step s = .next { s with
          errcode := .busyWrite
          errcmd := BitVec.ofNat 32 (4 * a.toNat)
          env := rest
          rdata := none
          draws := s.draws + 1 }) ∧
      (s.errcode ≠ .noError → step s = .next { s with env := rest, rdata := none, draws := s.draws + 1 })

/-- R105, R106, R107: a write of CTRL, in every state. SRST takes precedence; otherwise IE is written in every case and
CLR_ERR clears the error. -/
def Obligations.CtrlWriteActions : Prop :=
  ∀ (s : State) (v : Word) (rest : List PortEvent), s.env = .write 2 v :: rest →
    (v.getLsbD 2 = true →
      step s = .next { State.reset with env := rest, draws := s.draws + 1, unwritten := s.unwritten }) ∧
    (v.getLsbD 2 = false → v.getLsbD 1 = true →
      step s = .next { s with
        errcode := .noError
        errcmd := 0
        ie := v.getLsbD 0
        env := rest
        rdata := none
        draws := s.draws + 1 }) ∧
    (v.getLsbD 2 = false → v.getLsbD 1 = false →
      step s = .next { s with ie := v.getLsbD 0, env := rest, rdata := none, draws := s.draws + 1 })

/-- R108: a write of STATUS clears DONE where bit 1 is 1, and writes nothing else. -/
def Obligations.StatusWriteClearsDone : Prop :=
  ∀ (s : State) (v : Word) (rest : List PortEvent), s.env = .write 1 v :: rest →
    (v.getLsbD 1 = true → step s = .next { s with done := false, env := rest, rdata := none, draws := s.draws + 1 }) ∧
      (v.getLsbD 1 = false → step s = .next { s with env := rest, rdata := none, draws := s.draws + 1 })

/-- R131 (b): a host write of STATUS ordered before the completion of the same cycle does not lose the completion: DONE
ends at 1. -/
def Obligations.CompletionAfterAcknowledgeKeepsDone : Prop :=
  ∀ (s t u : State) (v : Word) (i : Instr) (rest : List PortEvent), s.Consistent → s.engine = .busy i →
    s.env = .write 1 v :: .engine :: rest → step s = .next t → step t = .next u → u.done = true ∧ u.engine = .idle

/-- The bits of STATUS (R15, R37), with the error codes of R120. -/
def Obligations.StatusWordLayout : Prop :=
  ∀ s : State,
    s.statusWord.getLsbD 0 = (s.engine != .idle) ∧ s.statusWord.getLsbD 1 = s.done ∧
      s.statusWord.getLsbD 2 = (s.errcode != .noError) ∧ s.statusWord.getLsbD 3 = false ∧
      s.statusWord.toNat / 16 =
        (match s.errcode with
          | .noError => 0
          | .divZero => 1
          | .badOpcode => 2
          | .badOperand => 3
          | .busyCmd => 4
          | .busyWrite => 5)

/-- R29: the interrupt output is IE ∧ (DONE ∨ FAULT), and FAULT is ERRCODE ≠ 0. -/
def Obligations.IrqIsEnabledDoneOrFault : Prop :=
  ∀ s : State, s.irq = true ↔ s.ie = true ∧ (s.done = true ∨ s.errcode ≠ .noError)

/-! ### The port (20_memory.md) -/

/-- R37: what a read returns while IDLE, by byte offset. An unwritten element is the model fault UnwrittenRead (R129) where
the model reports it, otherwise a free word that no read changes (log entries 2 and 3). -/
def Obligations.IdleReadReturns : Prop :=
  ∀ (s : State) (a : PortAddr) (rest : List PortEvent), s.env = .read a :: rest → s.engine = .idle →
    let off := 4 * a.toNat
    let returns := fun v : Word => step s = .next { s with env := rest, rdata := some v }
    let found := fun o : Option Word =>
      (∀ v, o = some v → returns v) ∧
        (o = none → s.unwritten = .report → step s = .fault .unwrittenRead) ∧
        (o = none → s.unwritten = .drawAny →
          step s = .next { s with env := rest, rdata := some (Config.anyIdleWord s.draws a) })
    (off = 0x000 → returns s.lastcmd) ∧ (off = 0x004 → returns s.statusWord) ∧
      (off = 0x008 → returns (if s.ie then 1 else 0)) ∧ (off = 0x00C → returns s.errcmd) ∧
      (off = 0x010 → returns (s.gfres.setWidth 32)) ∧
      (∀ j : Fin 60, off = 0x100 + 4 * j.val →
        found (packWritten s.key[4 * j.val] s.key[4 * j.val + 1] s.key[4 * j.val + 2] s.key[4 * j.val + 3])) ∧
      (∀ j : Fin 4, off = 0x200 + 4 * j.val →
        found (packWritten s.st[4 * j.val] s.st[4 * j.val + 1] s.st[4 * j.val + 2] s.st[4 * j.val + 3])) ∧
      (∀ j : Fin 16, off = 0x300 + 4 * j.val →
        found (packWritten s.mblk[4 * j.val] s.mblk[4 * j.val + 1] s.mblk[4 * j.val + 2] s.mblk[4 * j.val + 3])) ∧
      (∀ j : Fin 8, off = 0x400 + 4 * j.val → found s.h[j]) ∧
      (∀ t : Fin 64, off = 0x500 + 4 * t.val → found s.w[t]) ∧
      ((0x014 ≤ off ∧ off ≤ 0x0FC) ∨ (0x1F0 ≤ off ∧ off ≤ 0x1FC) ∨ (0x210 ≤ off ∧ off ≤ 0x2FC) ∨
        (0x340 ≤ off ∧ off ≤ 0x3FC) ∨ (0x420 ≤ off ∧ off ≤ 0x4FC) ∨ 0x600 ≤ off → returns 0)

/-- R38: what a read returns while BUSY. CMD, STATUS, CTRL, ERRCMD and the reserved offsets read as in R37; GFRES and the
data arrays return a free word, whatever they hold. -/
def Obligations.BusyReadReturns : Prop :=
  ∀ (s : State) (a : PortAddr) (rest : List PortEvent), s.env = .read a :: rest → s.engine ≠ .idle →
    let off := 4 * a.toNat
    let returns := fun v : Word => step s = .next { s with env := rest, rdata := some v }
    (off = 0x000 → returns s.lastcmd) ∧ (off = 0x004 → returns s.statusWord) ∧
      (off = 0x008 → returns (if s.ie then 1 else 0)) ∧ (off = 0x00C → returns s.errcmd) ∧
      ((0x014 ≤ off ∧ off ≤ 0x0FC) ∨ (0x1F0 ≤ off ∧ off ≤ 0x1FC) ∨ (0x210 ≤ off ∧ off ≤ 0x2FC) ∨
        (0x340 ≤ off ∧ off ≤ 0x3FC) ∨ (0x420 ≤ off ∧ off ≤ 0x4FC) ∨ 0x600 ≤ off → returns 0) ∧
      (off = 0x010 ∨ (0x100 ≤ off ∧ off ≤ 0x1EC) ∨ (0x200 ≤ off ∧ off ≤ 0x20C) ∨ (0x300 ≤ off ∧ off ≤ 0x33C) ∨
        (0x400 ≤ off ∧ off ≤ 0x41C) ∨ (0x500 ≤ off ∧ off ≤ 0x5FC) →
        step s = .next { s with env := rest, rdata := some (Config.anyWord s.draws), draws := s.draws + 1 })

/-- R34 and R35: a write of a data word while IDLE. In a byte array, element n takes byte lane n mod 4 of the word n div 4
and every other element stays; in a word array the word is stored as it is. The new elements are written. Nothing outside
the one array changes. -/
def Obligations.DataWriteStoresTheLanes : Prop :=
  ∀ (s : State) (a : PortAddr) (v : Word) (rest : List PortEvent), s.env = .write a v :: rest → s.engine = .idle →
    let off := 4 * a.toNat
    let lane := fun n : Nat => some (BitVec.ofNat 8 (v.toNat / 2 ^ (8 * (n % 4))))
    (∀ j : Fin 60, off = 0x100 + 4 * j.val →
      ∃ key : Vector (Option Byte) 240,
        step s = .next { s with key := key, env := rest, rdata := none, draws := s.draws + 1 } ∧
        ∀ n : Fin 240, key[n] = if n.val / 4 = j.val then lane n.val else s.key[n]) ∧
    (∀ j : Fin 4, off = 0x200 + 4 * j.val →
      ∃ st : Vector (Option Byte) 16,
        step s = .next { s with st := st, env := rest, rdata := none, draws := s.draws + 1 } ∧
        ∀ n : Fin 16, st[n] = if n.val / 4 = j.val then lane n.val else s.st[n]) ∧
    (∀ j : Fin 16, off = 0x300 + 4 * j.val →
      ∃ m : Vector (Option Byte) 64,
        step s = .next { s with mblk := m, env := rest, rdata := none, draws := s.draws + 1 } ∧
        ∀ n : Fin 64, m[n] = if n.val / 4 = j.val then lane n.val else s.mblk[n]) ∧
    (∀ j : Fin 8, off = 0x400 + 4 * j.val →
      ∃ h : Vector (Option Word) 8,
        step s = .next { s with h := h, env := rest, rdata := none, draws := s.draws + 1 } ∧
        ∀ n : Fin 8, h[n] = if n = j then some v else s.h[n]) ∧
    (∀ j : Fin 64, off = 0x500 + 4 * j.val →
      ∃ w : Vector (Option Word) 64,
        step s = .next { s with w := w, env := rest, rdata := none, draws := s.draws + 1 } ∧
        ∀ n : Fin 64, w[n] = if n = j then some v else s.w[n])

/-- A data word written while IDLE reads back, and every other word of the window reads as before. -/
def Obligations.DataWriteReadsBack : Prop :=
  ∀ (s : State) (a : PortAddr) (v : Word) (rest : List PortEvent),
    s.env = .write a v :: rest → s.engine = .idle → (regionOf a).isData = true →
      ∃ t, step s = .next t ∧ peek (regionOf a) t = .value v ∧
        ∀ b : PortAddr, b ≠ a → peek (regionOf b) t = peek (regionOf b) s

/-- Writes of ERRCMD, GFRES and the reserved offsets are ignored, with no error, in every state (a row of R39). -/
def Obligations.OtherWritesAreIgnored : Prop :=
  ∀ (s : State) (a : PortAddr) (v : Word) (rest : List PortEvent), s.env = .write a v :: rest →
    (let off := 4 * a.toNat
     off = 0x00C ∨ off = 0x010 ∨ (0x014 ≤ off ∧ off ≤ 0x0FC) ∨ (0x1F0 ≤ off ∧ off ≤ 0x1FC) ∨
       (0x210 ≤ off ∧ off ≤ 0x2FC) ∨ (0x340 ≤ off ∧ off ≤ 0x3FC) ∨ (0x420 ≤ off ∧ off ≤ 0x4FC) ∨ 0x600 ≤ off) →
      step s = .next { s with env := rest, rdata := none, draws := s.draws + 1 }

/-- R40: reads have no side effects, at every offset and in every state. A read that returns changes the read data alone (and,
while BUSY, the count of free draws, log entry 3). While IDLE a read is idempotent: the same read again returns the same word
and leaves the same machine, an unwritten word included. -/
def Obligations.ReadsHaveNoSideEffects : Prop :=
  (∀ (s t : State) (a : PortAddr) (rest : List PortEvent), s.env = .read a :: rest → step s = .next t →
      t = { s with env := rest, rdata := t.rdata, draws := t.draws } ∧ t.rdata.isSome ∧
        (s.engine = .idle → t.draws = s.draws)) ∧
    ∀ (s t : State) (a : PortAddr) (rest : List PortEvent), s.env = .read a :: .read a :: rest → s.engine = .idle →
      step s = .next t → step t = .next { t with env := rest }

/-- R44: while a command is pending, no read and no write other than a reset changes the pending command, GFRES or an array,
so the operands hold at completion the values they had at acceptance. The spec marks the conclusion about operands as its own
inference (R44: “[derived: from rule R39]”). -/
def Obligations.OperandsStayWhileBusy : Prop :=
  ∀ (s : State) (e : PortEvent) (i : Instr) (rest : List PortEvent),
    s.env = e :: rest → s.engine = .busy i → e ≠ .engine → e ≠ .rst → (∀ v : Word, v.getLsbD 2 = true → e ≠ .write 2 v) →
      ∃ t, step s = .next t ∧ t.engine = .busy i ∧ t.key = s.key ∧ t.st = s.st ∧ t.mblk = s.mblk ∧ t.h = s.h ∧
        t.w = s.w ∧ t.gfres = s.gfres ∧ t.lastcmd = s.lastcmd ∧ t.env = rest ∧ t.unwritten = s.unwritten

/-! ### Reset (70_reset_and_hazards.md) -/

/-- R136: the state right after reset, and what its registers read. -/
def Obligations.ResetState : Prop :=
  State.reset.lastcmd = 0 ∧ State.reset.engine = .idle ∧ State.reset.done = false ∧ State.reset.errcode = .noError ∧
    State.reset.ie = false ∧ State.reset.errcmd = 0 ∧ State.reset.gfres = 0 ∧
    (∀ k : Fin 240, State.reset.key[k] = none) ∧ (∀ k : Fin 16, State.reset.st[k] = none) ∧
    (∀ k : Fin 64, State.reset.mblk[k] = none) ∧ (∀ t : Fin 64, State.reset.w[t] = none) ∧
    (∀ j : Fin 8, State.reset.h[j] = some (ivRom j.val)) ∧ State.reset.irq = false ∧
    peek .status State.reset = .value 0 ∧ peek .ctrl State.reset = .value 0 ∧
    peek (.h 0) State.reset = .value 0x6a09e667

/-- R137: the state after a reset, by the pin or by CTRL.SRST, is the reset state whatever was pending; only the model's own
fields stay (the environment, the count of draws, the treatment of unwritten elements). The spec marks R137 as its own
inference (“[derived: from rule R136]”). -/
def Obligations.ResetForgetsEverything : Prop :=
  ∀ (s : State) (e : PortEvent) (rest : List PortEvent), s.env = e :: rest →
    (e = .rst ∨ ∃ v : Word, v.getLsbD 2 = true ∧ e = .write 2 v) →
      step s = .next { State.reset with env := rest, draws := s.draws + 1, unwritten := s.unwritten }

/-! ### The whole machine -/

/-- The reset state is consistent. -/
def Obligations.ResetIsConsistent : Prop := State.reset.Consistent

/-- Every step keeps a state consistent: LASTCMD is an accepted word; the pending command is LASTCMD decoded and DONE is 0
while BUSY; ERRCMD is what R120 says beside ERRCODE; every word of H is written. The invariant is the model's choice of what
the rules imply together. -/
def Obligations.StepKeepsConsistency : Prop :=
  ∀ s t : State, s.Consistent → step s = .next t → t.Consistent

/-- The hardware never stops: from a consistent state, with unwritten elements treated as the hardware does, every run goes
on, whatever the environment does. (Log entry 2.) -/
def Obligations.HardwareRunsNeverStop : Prop :=
  ∀ (s : State) (n : Nat), s.Consistent → s.unwritten = .drawAny → RunsSafely n s

/-- R42: a pending command is completed by one engine step, after at most as many steps as the environment has events, unless
the environment resets the core; until then it stays pending and the arrays stay as they are. Its operands are written, or
unwritten elements are treated as the hardware does (log entry 2). (The environment's schedule: log entry 1.) -/
def Obligations.PendingCommandCompletes : Prop :=
  ∀ (s : State) (i : Instr), s.Consistent → s.engine = .busy i → operandsWritten i s ∨ s.unwritten = .drawAny →
    (∀ e ∈ s.env, e ≠ .rst ∧ ∀ v : Word, v.getLsbD 2 = true → e ≠ .write 2 v) →
      ∃ (k : Nat) (t u : State), k ≤ s.env.length ∧ Host.Core.run Sys2Proof.core k s = .next t ∧
        t.engine = .busy i ∧ t.key = s.key ∧ t.st = s.st ∧ t.mblk = s.mblk ∧ t.h = s.h ∧ t.w = s.w ∧
        step t = .next u ∧ u.engine = .idle ∧ u.done = true

/-! ### Host procedures (46_host_procedures.md) -/

/-- R113: the padded length is 56 mod 64, and no shorter run of zero bytes reaches it. The minimality of the run the spec
gives “[from general knowledge, not in source]” (log entry 13). -/
def Obligations.PaddingReachesFiftySix : Prop :=
  ∀ msg : List Byte,
    (pad448 msg).length % 64 = 56 ∧
      ∃ z, z < 64 ∧ pad448 msg = msg ++ [0x80] ++ List.replicate z 0 ∧
        ∀ y, (msg.length + 1 + y) % 64 = 56 → z ≤ y

/-- The final blocks of a message are one block where at most 55 bytes are pending, two otherwise (R117). The spec marks it
as its own inference (“[derived: from rule R113]”). -/
def Obligations.FlushTailIsOneOrTwoBlocks : Prop :=
  ∀ hs : Hasher, hs.buf.length < 64 →
    (flushTail hs).length = if hs.buf.length ≤ 55 then 64 else 128

/-- The streaming equivalence (R118): extending by two chunks makes the script of extending by their concatenation, and
leaves the same Hasher; after any extension fewer than 64 bytes are pending. The spec marks R118's equality as its own
inference (“[derived: from rules R116, R117]”). -/
def Obligations.ExtendIsIndependentOfTheSplit : Prop :=
  ∀ (how : Waiting) (hs : Hasher) (x y : List Byte),
    let first := hasherExtend how hs x
    let second := hasherExtend how first.1 y
    hasherExtend how hs (x ++ y) = (second.1, first.2 ++ second.2) ∧ first.1.buf.length < 64
end

