-- ==== Sys2Proof/Laws/Aes.lean ====
section
/-! SUPPORT. The AES functions, element by element. -/

namespace Sys2Proof.Machine

@[simp] theorem getElem_subBytes (st : Vector Byte 16) (k : Nat) (h : k < 16) : (subBytes st)[k] = sbox st[k] := by
  unfold subBytes
  rw [Vector.getElem_ofFn]
  rfl

@[simp] theorem getElem_shiftRows (st : Vector Byte 16) (k : Nat) (h : k < 16) :
    (shiftRows st)[k] = st[k % 4 + 4 * ((k / 4 + k % 4) % 4)]'(by omega) := by
  unfold shiftRows
  rw [Vector.getElem_ofFn]

@[simp] theorem getElem_mixColumns (st : Vector Byte 16) (k : Nat) (h : k < 16) :
    (mixColumns st)[k] = mixByte (mixRow (k % 4)) (stateColumn st ⟨k / 4, by omega⟩) := by
  unfold mixColumns
  rw [Vector.getElem_ofFn]

@[simp] theorem getElem_addRoundKey (rk st : Vector Byte 16) (k : Nat) (h : k < 16) :
    (addRoundKey rk st)[k] = fAdd st[k] rk[k] := by
  unfold addRoundKey
  rw [Vector.getElem_ofFn]
  rfl

@[simp] theorem getElem_roundKeyOf (key : Vector Byte 240) (n : Fin 15) (k : Nat) (h : k < 16) :
    (roundKeyOf key n)[k] = key[16 * n.val + k]'(by omega) := by
  unfold roundKeyOf
  rw [Vector.getElem_ofFn]

theorem keyByte_of_lt (key : Vector Byte 240) (i : Nat) (h : i < 240) : keyByte key i = key[i] := by
  simp [keyByte, h]

/-- Storing a word changes its four bytes alone (R72). -/
theorem keyByte_putKeyWord (key : Vector Byte 240) (i : Nat) (t : KeyWord) (h : i + 3 < 240) (k : Nat) :
    keyByte (putKeyWord key i t) k =
      if k = i then t.t0
      else if k = i + 1 then t.t1
      else if k = i + 2 then t.t2
      else if k = i + 3 then t.t3
      else keyByte key k := by
  unfold putKeyWord keyByte
  simp only [Vector.getElem?_setIfInBounds]
  split_ifs <;> first | rfl | omega

end Sys2Proof.Machine
end

