-- ==== Sys2Proof/Laws/Arrays.lean ====
section
/-! SUPPORT. What the operations on arrays and on packed words say of one element. -/

namespace Sys2Proof.Machine

variable {α β : Type} {n : Nat}

@[simp] theorem getElem_written (v : Vector α n) (i : Nat) (h : i < n) : (written v)[i] = some v[i] := by
  simp [written]

@[simp] theorem getElem_unwrittenArray (i : Nat) (h : i < n) : (unwrittenArray n : Vector (Option α) n)[i] = none := by
  simp [unwrittenArray]

@[simp] theorem getElem_iv (j : Nat) (h : j < 8) : iv[j] = ivRom j := by
  simp [iv]

theorem allWritten_eq_some_iff (v : Vector (Option α) n) (u : Vector α n) :
    allWritten v = some u ↔ ∀ i : Fin n, v[i] = some u[i] := by
  unfold allWritten
  split
  · rename_i h
    simp only [Option.some.injEq]
    constructor
    · rintro rfl i
      simp
    · intro hu
      ext i hi
      have := hu ⟨i, hi⟩
      simp_all
  · rename_i h
    simp only [reduceCtorEq, false_iff]
    intro hu
    exact h fun i => by simp [hu i]

theorem allWritten_eq_none_iff (v : Vector (Option α) n) :
    allWritten v = none ↔ ∃ i : Fin n, v[i] = none := by
  unfold allWritten
  split
  · rename_i h
    simp only [reduceCtorEq, false_iff, not_exists]
    intro i hi
    have := h i
    simp [hi] at this
  · rename_i h
    simp only [true_iff]
    by_contra hn
    exact h fun i => by
      by_contra hi
      exact hn ⟨i, by simpa using hi⟩

theorem allWritten_isSome (v : Vector (Option α) n) :
    (∃ u, allWritten v = some u) ↔ ∀ i : Fin n, v[i].isSome := by
  rw [← Option.isSome_iff_exists, Option.isSome_iff_ne_none, ne_eq, allWritten_eq_none_iff]
  simp [Option.isSome_iff_ne_none]

@[simp] theorem allWritten_written (v : Vector α n) : allWritten (written v) = some v :=
  (allWritten_eq_some_iff _ _).2 fun i => by simp

@[simp] theorem bothWritten_eq_some (a : Option α) (b : Option β) (x : α) (y : β) :
    bothWritten a b = some (x, y) ↔ a = some x ∧ b = some y := by
  cases a <;> cases b <;> simp [bothWritten]

theorem bothWritten_eq_none (a : Option α) (b : Option β) : bothWritten a b = none ↔ a = none ∨ b = none := by
  cases a <;> cases b <;> simp [bothWritten]

theorem roundIndex_eq_some (n : Byte) (r : Fin 15) : roundIndex n = some r ↔ n.toNat = r.val := by
  unfold roundIndex
  split
  · simp [Fin.ext_iff]
  · simp only [reduceCtorEq, false_iff]
    omega

theorem roundIndex_eq_none (n : Byte) : roundIndex n = none ↔ 14 < n.toNat := by
  unfold roundIndex
  split
  · simp
    omega
  · simp
    omega

@[simp] theorem getElem_putPacked (arr : Vector (Option Byte) n) (j : Nat) (v : Word) (i : Nat) (h : i < n) :
    (putPacked arr j v)[i] = if i / 4 = j then some (byteLane (i % 4) v) else arr[i] := by
  simp [putPacked]

@[simp] theorem getElem_putWord (arr : Vector (Option Word) n) (j : Nat) (v : Word) (i : Nat) (h : i < n) :
    (putWord arr j v)[i] = if i = j then some v else arr[i] := by
  simp [putWord]

@[simp] theorem getElem_withKeyTail (v : Vector Byte 240) (key : Vector (Option Byte) 240) (i : Nat) (h : i < 240) :
    (withKeyTail v key)[i] = if i < 32 then key[i] else some v[i] := by
  unfold withKeyTail
  rw [Vector.getElem_ofFn]
  rfl

@[simp] theorem getElem_anyBytes (m d i : Nat) (h : i < m) : (anyBytes m d)[i] = Config.anyByte (d + i) := by
  simp [anyBytes]

@[simp] theorem getElem_anyWords (m d i : Nat) (h : i < m) : (anyWords m d)[i] = Config.anyWord (d + i) := by
  simp [anyWords]

theorem packWord_byteLane (v : Word) :
    packWord (byteLane 0 v) (byteLane 1 v) (byteLane 2 v) (byteLane 3 v) = v := by
  unfold packWord byteLane
  ext i hi
  simp only [BitVec.getElem_append, BitVec.getElem_extractLsb']
  split
  · simp [BitVec.getLsbD_eq_getElem hi]
  · split
    · rw [← BitVec.getLsbD_eq_getElem hi]; congr 1; omega
    · split
      · rw [← BitVec.getLsbD_eq_getElem hi]; congr 1; omega
      · rw [← BitVec.getLsbD_eq_getElem hi]; congr 1; omega

end Sys2Proof.Machine
end

