-- ==== Sys2Proof/Laws/Decode.lean ====
section
/-! SUPPORT. The fields of a command word (30_encoding.md rule R46). -/

namespace Sys2Proof

theorem getLsbD_commandWord (r b a o : Byte) (i : Nat) :
    (commandWord r b a o).getLsbD i =
      if i < 8 then o.getLsbD i
      else if i < 16 then a.getLsbD (i - 8)
      else if i < 24 then b.getLsbD (i - 16)
      else r.getLsbD (i - 24) := by
  have h : (commandWord r b a o).getLsbD i = BitVec.getLsbD (w := 8 + 8 + 8 + 8) (r ++ b ++ a ++ o) i := rfl
  rw [h, BitVec.getLsbD_append, BitVec.getLsbD_append, BitVec.getLsbD_append]
  split_ifs <;> first | rfl | omega

@[simp] theorem opcField_commandWord (r b a o : Byte) : opcField (commandWord r b a o) = o := by
  apply BitVec.eq_of_getLsbD_eq
  intro i hi
  rw [opcField, BitVec.getLsbD_extractLsb', getLsbD_commandWord, if_pos (by omega)]
  simp [hi]

@[simp] theorem aField_commandWord (r b a o : Byte) : aField (commandWord r b a o) = a := by
  apply BitVec.eq_of_getLsbD_eq
  intro i hi
  rw [aField, BitVec.getLsbD_extractLsb', getLsbD_commandWord, if_neg (by omega), if_pos (by omega)]
  simp [hi]

@[simp] theorem bField_commandWord (r b a o : Byte) : bField (commandWord r b a o) = b := by
  apply BitVec.eq_of_getLsbD_eq
  intro i hi
  rw [bField, BitVec.getLsbD_extractLsb', getLsbD_commandWord, if_neg (by omega), if_neg (by omega), if_pos (by omega)]
  simp [hi]

@[simp] theorem rsvField_commandWord (r b a o : Byte) : rsvField (commandWord r b a o) = r := by
  apply BitVec.eq_of_getLsbD_eq
  intro i hi
  rw [rsvField, BitVec.getLsbD_extractLsb', getLsbD_commandWord, if_neg (by omega), if_neg (by omega), if_neg (by omega)]
  simp [hi]

/-- A word is its four fields (R46). -/
theorem commandWord_fields (w : Word) : commandWord (rsvField w) (bField w) (aField w) (opcField w) = w := by
  apply BitVec.eq_of_getLsbD_eq
  intro i hi
  rw [getLsbD_commandWord]
  simp only [rsvField, bField, aField, opcField, BitVec.getLsbD_extractLsb']
  split_ifs with h1 h2 h3
  · simp [h1]
  · rw [show 8 + (i - 8) = i by omega]; simp; omega
  · rw [show 16 + (i - 16) = i by omega]; simp; omega
  · rw [show 24 + (i - 24) = i by omega]; simp; omega

end Sys2Proof
end

