-- ==== Sys2Proof/Laws/Field.lean ====
section
/-! SUPPORT. The S-box as the spec prints it (40_gf_field.md rule R65). -/

namespace Sys2Proof.Machine

/-- The SBOX table of R65, rows 0_ to F_. -/
def sboxRows : List Nat :=
  [0x637c777bf26b6fc53001672bfed7ab76,
   0xca82c97dfa5947f0add4a2af9ca472c0,
   0xb7fd9326363ff7cc34a5e5f171d83115,
   0x04c723c31896059a071280e2eb27b275,
   0x09832c1a1b6e5aa0523bd6b329e32f84,
   0x53d100ed20fcb15b6acbbe394a4c58cf,
   0xd0efaafb434d338545f9027f503c9fa8,
   0x51a3408f929d38f5bcb6da2110fff3d2] ++
  [0xcd0c13ec5f974417c4a77e3d645d1973,
   0x60814fdc222a908846eeb814de5e0bdb,
   0xe0323a0a4906245cc2d3ac629195e479,
   0xe7c8376d8dd54ea96c56f4ea657aae08,
   0xba78252e1ca6b4c6e8dd741f4bbd8b8a,
   0x703eb5664803f60e613557b986c11d9e,
   0xe1f8981169d98e949b1e87e9ce5528df,
   0x8ca1890dbfe6426841992d0fb054bb16]

/-- The function of R65 gives the printed table. -/
theorem sbox_eq_table : ∀ x : Fin 256, sbox (BitVec.ofFin x) = romByte sboxRows x.val := by decide +kernel

end Sys2Proof.Machine
end

