-- ==== Sys2Proof/Laws/State.lean ====
section
/-! SUPPORT. One lemma per field per update of the state, each true by rfl, so that no proof unfolds a record update. -/

namespace Sys2Proof.Machine

section ClearError
variable (s : State)

@[simp] theorem clearError_lastcmd : (clearError s).lastcmd = s.lastcmd := rfl
@[simp] theorem clearError_engine : (clearError s).engine = s.engine := rfl
@[simp] theorem clearError_done : (clearError s).done = s.done := rfl
@[simp] theorem clearError_errcode : (clearError s).errcode = .noError := rfl
@[simp] theorem clearError_ie : (clearError s).ie = s.ie := rfl
@[simp] theorem clearError_errcmd : (clearError s).errcmd = 0 := rfl
@[simp] theorem clearError_gfres : (clearError s).gfres = s.gfres := rfl
@[simp] theorem clearError_key : (clearError s).key = s.key := rfl
@[simp] theorem clearError_st : (clearError s).st = s.st := rfl
@[simp] theorem clearError_mblk : (clearError s).mblk = s.mblk := rfl
@[simp] theorem clearError_h : (clearError s).h = s.h := rfl
@[simp] theorem clearError_w : (clearError s).w = s.w := rfl
@[simp] theorem clearError_env : (clearError s).env = s.env := rfl
@[simp] theorem clearError_rdata : (clearError s).rdata = s.rdata := rfl
@[simp] theorem clearError_draws : (clearError s).draws = s.draws := rfl
@[simp] theorem clearError_unwritten : (clearError s).unwritten = s.unwritten := rfl

end ClearError

section Accept
variable (word : Word) (i : Instr) (s : State)

@[simp] theorem accept_lastcmd : (accept word i s).lastcmd = word := rfl
@[simp] theorem accept_engine : (accept word i s).engine = .busy i := rfl
@[simp] theorem accept_done : (accept word i s).done = false := rfl
@[simp] theorem accept_errcode : (accept word i s).errcode = s.errcode := rfl
@[simp] theorem accept_ie : (accept word i s).ie = s.ie := rfl
@[simp] theorem accept_errcmd : (accept word i s).errcmd = s.errcmd := rfl
@[simp] theorem accept_gfres : (accept word i s).gfres = s.gfres := rfl
@[simp] theorem accept_key : (accept word i s).key = s.key := rfl
@[simp] theorem accept_st : (accept word i s).st = s.st := rfl
@[simp] theorem accept_mblk : (accept word i s).mblk = s.mblk := rfl
@[simp] theorem accept_h : (accept word i s).h = s.h := rfl
@[simp] theorem accept_w : (accept word i s).w = s.w := rfl
@[simp] theorem accept_env : (accept word i s).env = s.env := rfl
@[simp] theorem accept_rdata : (accept word i s).rdata = s.rdata := rfl
@[simp] theorem accept_draws : (accept word i s).draws = s.draws := rfl
@[simp] theorem accept_unwritten : (accept word i s).unwritten = s.unwritten := rfl

end Accept

section Retire
variable (s : State)

@[simp] theorem retire_lastcmd : (retire s).lastcmd = s.lastcmd := rfl
@[simp] theorem retire_engine : (retire s).engine = .idle := rfl
@[simp] theorem retire_done : (retire s).done = true := rfl
@[simp] theorem retire_errcode : (retire s).errcode = s.errcode := rfl
@[simp] theorem retire_ie : (retire s).ie = s.ie := rfl
@[simp] theorem retire_errcmd : (retire s).errcmd = s.errcmd := rfl
@[simp] theorem retire_gfres : (retire s).gfres = s.gfres := rfl
@[simp] theorem retire_key : (retire s).key = s.key := rfl
@[simp] theorem retire_st : (retire s).st = s.st := rfl
@[simp] theorem retire_mblk : (retire s).mblk = s.mblk := rfl
@[simp] theorem retire_h : (retire s).h = s.h := rfl
@[simp] theorem retire_w : (retire s).w = s.w := rfl
@[simp] theorem retire_env : (retire s).env = s.env := rfl
@[simp] theorem retire_rdata : (retire s).rdata = s.rdata := rfl
@[simp] theorem retire_draws : (retire s).draws = s.draws := rfl
@[simp] theorem retire_unwritten : (retire s).unwritten = s.unwritten := rfl

end Retire

section PutGfres
variable (r : Byte) (s : State)

@[simp] theorem putGfres_lastcmd : (putGfres r s).lastcmd = s.lastcmd := rfl
@[simp] theorem putGfres_engine : (putGfres r s).engine = s.engine := rfl
@[simp] theorem putGfres_done : (putGfres r s).done = s.done := rfl
@[simp] theorem putGfres_errcode : (putGfres r s).errcode = s.errcode := rfl
@[simp] theorem putGfres_ie : (putGfres r s).ie = s.ie := rfl
@[simp] theorem putGfres_errcmd : (putGfres r s).errcmd = s.errcmd := rfl
@[simp] theorem putGfres_gfres : (putGfres r s).gfres = r := rfl
@[simp] theorem putGfres_key : (putGfres r s).key = s.key := rfl
@[simp] theorem putGfres_st : (putGfres r s).st = s.st := rfl
@[simp] theorem putGfres_mblk : (putGfres r s).mblk = s.mblk := rfl
@[simp] theorem putGfres_h : (putGfres r s).h = s.h := rfl
@[simp] theorem putGfres_w : (putGfres r s).w = s.w := rfl
@[simp] theorem putGfres_env : (putGfres r s).env = s.env := rfl
@[simp] theorem putGfres_rdata : (putGfres r s).rdata = s.rdata := rfl
@[simp] theorem putGfres_draws : (putGfres r s).draws = s.draws := rfl
@[simp] theorem putGfres_unwritten : (putGfres r s).unwritten = s.unwritten := rfl

end PutGfres

section PutSt
variable (v : Vector Byte 16) (s : State)

@[simp] theorem putSt_lastcmd : (putSt v s).lastcmd = s.lastcmd := rfl
@[simp] theorem putSt_engine : (putSt v s).engine = s.engine := rfl
@[simp] theorem putSt_done : (putSt v s).done = s.done := rfl
@[simp] theorem putSt_errcode : (putSt v s).errcode = s.errcode := rfl
@[simp] theorem putSt_ie : (putSt v s).ie = s.ie := rfl
@[simp] theorem putSt_errcmd : (putSt v s).errcmd = s.errcmd := rfl
@[simp] theorem putSt_gfres : (putSt v s).gfres = s.gfres := rfl
@[simp] theorem putSt_key : (putSt v s).key = s.key := rfl
@[simp] theorem putSt_st : (putSt v s).st = written v := rfl
@[simp] theorem putSt_mblk : (putSt v s).mblk = s.mblk := rfl
@[simp] theorem putSt_h : (putSt v s).h = s.h := rfl
@[simp] theorem putSt_w : (putSt v s).w = s.w := rfl
@[simp] theorem putSt_env : (putSt v s).env = s.env := rfl
@[simp] theorem putSt_rdata : (putSt v s).rdata = s.rdata := rfl
@[simp] theorem putSt_draws : (putSt v s).draws = s.draws := rfl
@[simp] theorem putSt_unwritten : (putSt v s).unwritten = s.unwritten := rfl

end PutSt

section PutKeyTail
variable (v : Vector Byte 240) (s : State)

@[simp] theorem putKeyTail_lastcmd : (putKeyTail v s).lastcmd = s.lastcmd := rfl
@[simp] theorem putKeyTail_engine : (putKeyTail v s).engine = s.engine := rfl
@[simp] theorem putKeyTail_done : (putKeyTail v s).done = s.done := rfl
@[simp] theorem putKeyTail_errcode : (putKeyTail v s).errcode = s.errcode := rfl
@[simp] theorem putKeyTail_ie : (putKeyTail v s).ie = s.ie := rfl
@[simp] theorem putKeyTail_errcmd : (putKeyTail v s).errcmd = s.errcmd := rfl
@[simp] theorem putKeyTail_gfres : (putKeyTail v s).gfres = s.gfres := rfl
@[simp] theorem putKeyTail_key : (putKeyTail v s).key = withKeyTail v s.key := rfl
@[simp] theorem putKeyTail_st : (putKeyTail v s).st = s.st := rfl
@[simp] theorem putKeyTail_mblk : (putKeyTail v s).mblk = s.mblk := rfl
@[simp] theorem putKeyTail_h : (putKeyTail v s).h = s.h := rfl
@[simp] theorem putKeyTail_w : (putKeyTail v s).w = s.w := rfl
@[simp] theorem putKeyTail_env : (putKeyTail v s).env = s.env := rfl
@[simp] theorem putKeyTail_rdata : (putKeyTail v s).rdata = s.rdata := rfl
@[simp] theorem putKeyTail_draws : (putKeyTail v s).draws = s.draws := rfl
@[simp] theorem putKeyTail_unwritten : (putKeyTail v s).unwritten = s.unwritten := rfl

end PutKeyTail

section PutH
variable (v : Vector Word 8) (s : State)

@[simp] theorem putH_lastcmd : (putH v s).lastcmd = s.lastcmd := rfl
@[simp] theorem putH_engine : (putH v s).engine = s.engine := rfl
@[simp] theorem putH_done : (putH v s).done = s.done := rfl
@[simp] theorem putH_errcode : (putH v s).errcode = s.errcode := rfl
@[simp] theorem putH_ie : (putH v s).ie = s.ie := rfl
@[simp] theorem putH_errcmd : (putH v s).errcmd = s.errcmd := rfl
@[simp] theorem putH_gfres : (putH v s).gfres = s.gfres := rfl
@[simp] theorem putH_key : (putH v s).key = s.key := rfl
@[simp] theorem putH_st : (putH v s).st = s.st := rfl
@[simp] theorem putH_mblk : (putH v s).mblk = s.mblk := rfl
@[simp] theorem putH_h : (putH v s).h = written v := rfl
@[simp] theorem putH_w : (putH v s).w = s.w := rfl
@[simp] theorem putH_env : (putH v s).env = s.env := rfl
@[simp] theorem putH_rdata : (putH v s).rdata = s.rdata := rfl
@[simp] theorem putH_draws : (putH v s).draws = s.draws := rfl
@[simp] theorem putH_unwritten : (putH v s).unwritten = s.unwritten := rfl

end PutH

section PutW
variable (v : Vector Word 64) (s : State)

@[simp] theorem putW_lastcmd : (putW v s).lastcmd = s.lastcmd := rfl
@[simp] theorem putW_engine : (putW v s).engine = s.engine := rfl
@[simp] theorem putW_done : (putW v s).done = s.done := rfl
@[simp] theorem putW_errcode : (putW v s).errcode = s.errcode := rfl
@[simp] theorem putW_ie : (putW v s).ie = s.ie := rfl
@[simp] theorem putW_errcmd : (putW v s).errcmd = s.errcmd := rfl
@[simp] theorem putW_gfres : (putW v s).gfres = s.gfres := rfl
@[simp] theorem putW_key : (putW v s).key = s.key := rfl
@[simp] theorem putW_st : (putW v s).st = s.st := rfl
@[simp] theorem putW_mblk : (putW v s).mblk = s.mblk := rfl
@[simp] theorem putW_h : (putW v s).h = s.h := rfl
@[simp] theorem putW_w : (putW v s).w = written v := rfl
@[simp] theorem putW_env : (putW v s).env = s.env := rfl
@[simp] theorem putW_rdata : (putW v s).rdata = s.rdata := rfl
@[simp] theorem putW_draws : (putW v s).draws = s.draws := rfl
@[simp] theorem putW_unwritten : (putW v s).unwritten = s.unwritten := rfl

end PutW

section AnySt
variable (s : State)

@[simp] theorem anySt_lastcmd : (anySt s).lastcmd = s.lastcmd := rfl
@[simp] theorem anySt_engine : (anySt s).engine = s.engine := rfl
@[simp] theorem anySt_done : (anySt s).done = s.done := rfl
@[simp] theorem anySt_errcode : (anySt s).errcode = s.errcode := rfl
@[simp] theorem anySt_ie : (anySt s).ie = s.ie := rfl
@[simp] theorem anySt_errcmd : (anySt s).errcmd = s.errcmd := rfl
@[simp] theorem anySt_gfres : (anySt s).gfres = s.gfres := rfl
@[simp] theorem anySt_key : (anySt s).key = s.key := rfl
@[simp] theorem anySt_st : (anySt s).st = written (anyBytes 16 s.draws) := rfl
@[simp] theorem anySt_mblk : (anySt s).mblk = s.mblk := rfl
@[simp] theorem anySt_h : (anySt s).h = s.h := rfl
@[simp] theorem anySt_w : (anySt s).w = s.w := rfl
@[simp] theorem anySt_env : (anySt s).env = s.env := rfl
@[simp] theorem anySt_rdata : (anySt s).rdata = s.rdata := rfl
@[simp] theorem anySt_draws : (anySt s).draws = s.draws + 16 := rfl
@[simp] theorem anySt_unwritten : (anySt s).unwritten = s.unwritten := rfl

end AnySt

section AnyKeyTail
variable (s : State)

@[simp] theorem anyKeyTail_lastcmd : (anyKeyTail s).lastcmd = s.lastcmd := rfl
@[simp] theorem anyKeyTail_engine : (anyKeyTail s).engine = s.engine := rfl
@[simp] theorem anyKeyTail_done : (anyKeyTail s).done = s.done := rfl
@[simp] theorem anyKeyTail_errcode : (anyKeyTail s).errcode = s.errcode := rfl
@[simp] theorem anyKeyTail_ie : (anyKeyTail s).ie = s.ie := rfl
@[simp] theorem anyKeyTail_errcmd : (anyKeyTail s).errcmd = s.errcmd := rfl
@[simp] theorem anyKeyTail_gfres : (anyKeyTail s).gfres = s.gfres := rfl
@[simp] theorem anyKeyTail_key : (anyKeyTail s).key = withKeyTail (anyBytes 240 s.draws) s.key := rfl
@[simp] theorem anyKeyTail_st : (anyKeyTail s).st = s.st := rfl
@[simp] theorem anyKeyTail_mblk : (anyKeyTail s).mblk = s.mblk := rfl
@[simp] theorem anyKeyTail_h : (anyKeyTail s).h = s.h := rfl
@[simp] theorem anyKeyTail_w : (anyKeyTail s).w = s.w := rfl
@[simp] theorem anyKeyTail_env : (anyKeyTail s).env = s.env := rfl
@[simp] theorem anyKeyTail_rdata : (anyKeyTail s).rdata = s.rdata := rfl
@[simp] theorem anyKeyTail_draws : (anyKeyTail s).draws = s.draws + 240 := rfl
@[simp] theorem anyKeyTail_unwritten : (anyKeyTail s).unwritten = s.unwritten := rfl

end AnyKeyTail

section AnyH
variable (s : State)

@[simp] theorem anyH_lastcmd : (anyH s).lastcmd = s.lastcmd := rfl
@[simp] theorem anyH_engine : (anyH s).engine = s.engine := rfl
@[simp] theorem anyH_done : (anyH s).done = s.done := rfl
@[simp] theorem anyH_errcode : (anyH s).errcode = s.errcode := rfl
@[simp] theorem anyH_ie : (anyH s).ie = s.ie := rfl
@[simp] theorem anyH_errcmd : (anyH s).errcmd = s.errcmd := rfl
@[simp] theorem anyH_gfres : (anyH s).gfres = s.gfres := rfl
@[simp] theorem anyH_key : (anyH s).key = s.key := rfl
@[simp] theorem anyH_st : (anyH s).st = s.st := rfl
@[simp] theorem anyH_mblk : (anyH s).mblk = s.mblk := rfl
@[simp] theorem anyH_h : (anyH s).h = written (anyWords 8 s.draws) := rfl
@[simp] theorem anyH_w : (anyH s).w = s.w := rfl
@[simp] theorem anyH_env : (anyH s).env = s.env := rfl
@[simp] theorem anyH_rdata : (anyH s).rdata = s.rdata := rfl
@[simp] theorem anyH_draws : (anyH s).draws = s.draws + 8 := rfl
@[simp] theorem anyH_unwritten : (anyH s).unwritten = s.unwritten := rfl

end AnyH

section AnyW
variable (s : State)

@[simp] theorem anyW_lastcmd : (anyW s).lastcmd = s.lastcmd := rfl
@[simp] theorem anyW_engine : (anyW s).engine = s.engine := rfl
@[simp] theorem anyW_done : (anyW s).done = s.done := rfl
@[simp] theorem anyW_errcode : (anyW s).errcode = s.errcode := rfl
@[simp] theorem anyW_ie : (anyW s).ie = s.ie := rfl
@[simp] theorem anyW_errcmd : (anyW s).errcmd = s.errcmd := rfl
@[simp] theorem anyW_gfres : (anyW s).gfres = s.gfres := rfl
@[simp] theorem anyW_key : (anyW s).key = s.key := rfl
@[simp] theorem anyW_st : (anyW s).st = s.st := rfl
@[simp] theorem anyW_mblk : (anyW s).mblk = s.mblk := rfl
@[simp] theorem anyW_h : (anyW s).h = s.h := rfl
@[simp] theorem anyW_w : (anyW s).w = written (anyWords 64 s.draws) := rfl
@[simp] theorem anyW_env : (anyW s).env = s.env := rfl
@[simp] theorem anyW_rdata : (anyW s).rdata = s.rdata := rfl
@[simp] theorem anyW_draws : (anyW s).draws = s.draws + 64 := rfl
@[simp] theorem anyW_unwritten : (anyW s).unwritten = s.unwritten := rfl

end AnyW

section ReturnWord
variable (v : Word) (s : State)

@[simp] theorem returnWord_lastcmd : (returnWord v s).lastcmd = s.lastcmd := rfl
@[simp] theorem returnWord_engine : (returnWord v s).engine = s.engine := rfl
@[simp] theorem returnWord_done : (returnWord v s).done = s.done := rfl
@[simp] theorem returnWord_errcode : (returnWord v s).errcode = s.errcode := rfl
@[simp] theorem returnWord_ie : (returnWord v s).ie = s.ie := rfl
@[simp] theorem returnWord_errcmd : (returnWord v s).errcmd = s.errcmd := rfl
@[simp] theorem returnWord_gfres : (returnWord v s).gfres = s.gfres := rfl
@[simp] theorem returnWord_key : (returnWord v s).key = s.key := rfl
@[simp] theorem returnWord_st : (returnWord v s).st = s.st := rfl
@[simp] theorem returnWord_mblk : (returnWord v s).mblk = s.mblk := rfl
@[simp] theorem returnWord_h : (returnWord v s).h = s.h := rfl
@[simp] theorem returnWord_w : (returnWord v s).w = s.w := rfl
@[simp] theorem returnWord_env : (returnWord v s).env = s.env := rfl
@[simp] theorem returnWord_rdata : (returnWord v s).rdata = some v := rfl
@[simp] theorem returnWord_draws : (returnWord v s).draws = s.draws := rfl
@[simp] theorem returnWord_unwritten : (returnWord v s).unwritten = s.unwritten := rfl

end ReturnWord

section ReturnAny
variable (s : State)

@[simp] theorem returnAny_lastcmd : (returnAny s).lastcmd = s.lastcmd := rfl
@[simp] theorem returnAny_engine : (returnAny s).engine = s.engine := rfl
@[simp] theorem returnAny_done : (returnAny s).done = s.done := rfl
@[simp] theorem returnAny_errcode : (returnAny s).errcode = s.errcode := rfl
@[simp] theorem returnAny_ie : (returnAny s).ie = s.ie := rfl
@[simp] theorem returnAny_errcmd : (returnAny s).errcmd = s.errcmd := rfl
@[simp] theorem returnAny_gfres : (returnAny s).gfres = s.gfres := rfl
@[simp] theorem returnAny_key : (returnAny s).key = s.key := rfl
@[simp] theorem returnAny_st : (returnAny s).st = s.st := rfl
@[simp] theorem returnAny_mblk : (returnAny s).mblk = s.mblk := rfl
@[simp] theorem returnAny_h : (returnAny s).h = s.h := rfl
@[simp] theorem returnAny_w : (returnAny s).w = s.w := rfl
@[simp] theorem returnAny_env : (returnAny s).env = s.env := rfl
@[simp] theorem returnAny_rdata : (returnAny s).rdata = some (Config.anyWord s.draws) := rfl
@[simp] theorem returnAny_draws : (returnAny s).draws = s.draws + 1 := rfl
@[simp] theorem returnAny_unwritten : (returnAny s).unwritten = s.unwritten := rfl

end ReturnAny

section TakeEvent
variable (rest : List PortEvent) (s : State)

@[simp] theorem takeEvent_lastcmd : (takeEvent rest s).lastcmd = s.lastcmd := rfl
@[simp] theorem takeEvent_engine : (takeEvent rest s).engine = s.engine := rfl
@[simp] theorem takeEvent_done : (takeEvent rest s).done = s.done := rfl
@[simp] theorem takeEvent_errcode : (takeEvent rest s).errcode = s.errcode := rfl
@[simp] theorem takeEvent_ie : (takeEvent rest s).ie = s.ie := rfl
@[simp] theorem takeEvent_errcmd : (takeEvent rest s).errcmd = s.errcmd := rfl
@[simp] theorem takeEvent_gfres : (takeEvent rest s).gfres = s.gfres := rfl
@[simp] theorem takeEvent_key : (takeEvent rest s).key = s.key := rfl
@[simp] theorem takeEvent_st : (takeEvent rest s).st = s.st := rfl
@[simp] theorem takeEvent_mblk : (takeEvent rest s).mblk = s.mblk := rfl
@[simp] theorem takeEvent_h : (takeEvent rest s).h = s.h := rfl
@[simp] theorem takeEvent_w : (takeEvent rest s).w = s.w := rfl
@[simp] theorem takeEvent_env : (takeEvent rest s).env = rest := rfl
@[simp] theorem takeEvent_rdata : (takeEvent rest s).rdata = none := rfl
@[simp] theorem takeEvent_draws : (takeEvent rest s).draws = s.draws := rfl
@[simp] theorem takeEvent_unwritten : (takeEvent rest s).unwritten = s.unwritten := rfl

end TakeEvent

section NewChoice
variable (s : State)

@[simp] theorem newChoice_lastcmd : (newChoice s).lastcmd = s.lastcmd := rfl
@[simp] theorem newChoice_engine : (newChoice s).engine = s.engine := rfl
@[simp] theorem newChoice_done : (newChoice s).done = s.done := rfl
@[simp] theorem newChoice_errcode : (newChoice s).errcode = s.errcode := rfl
@[simp] theorem newChoice_ie : (newChoice s).ie = s.ie := rfl
@[simp] theorem newChoice_errcmd : (newChoice s).errcmd = s.errcmd := rfl
@[simp] theorem newChoice_gfres : (newChoice s).gfres = s.gfres := rfl
@[simp] theorem newChoice_key : (newChoice s).key = s.key := rfl
@[simp] theorem newChoice_st : (newChoice s).st = s.st := rfl
@[simp] theorem newChoice_mblk : (newChoice s).mblk = s.mblk := rfl
@[simp] theorem newChoice_h : (newChoice s).h = s.h := rfl
@[simp] theorem newChoice_w : (newChoice s).w = s.w := rfl
@[simp] theorem newChoice_env : (newChoice s).env = s.env := rfl
@[simp] theorem newChoice_rdata : (newChoice s).rdata = s.rdata := rfl
@[simp] theorem newChoice_draws : (newChoice s).draws = s.draws + 1 := rfl
@[simp] theorem newChoice_unwritten : (newChoice s).unwritten = s.unwritten := rfl

end NewChoice

section ResetCore
variable (s : State)

@[simp] theorem resetCore_lastcmd : (resetCore s).lastcmd = State.reset.lastcmd := rfl
@[simp] theorem resetCore_engine : (resetCore s).engine = State.reset.engine := rfl
@[simp] theorem resetCore_done : (resetCore s).done = State.reset.done := rfl
@[simp] theorem resetCore_errcode : (resetCore s).errcode = State.reset.errcode := rfl
@[simp] theorem resetCore_ie : (resetCore s).ie = State.reset.ie := rfl
@[simp] theorem resetCore_errcmd : (resetCore s).errcmd = State.reset.errcmd := rfl
@[simp] theorem resetCore_gfres : (resetCore s).gfres = State.reset.gfres := rfl
@[simp] theorem resetCore_key : (resetCore s).key = State.reset.key := rfl
@[simp] theorem resetCore_st : (resetCore s).st = State.reset.st := rfl
@[simp] theorem resetCore_mblk : (resetCore s).mblk = State.reset.mblk := rfl
@[simp] theorem resetCore_h : (resetCore s).h = State.reset.h := rfl
@[simp] theorem resetCore_w : (resetCore s).w = State.reset.w := rfl
@[simp] theorem resetCore_env : (resetCore s).env = s.env := rfl
@[simp] theorem resetCore_rdata : (resetCore s).rdata = s.rdata := rfl
@[simp] theorem resetCore_draws : (resetCore s).draws = s.draws := rfl
@[simp] theorem resetCore_unwritten : (resetCore s).unwritten = s.unwritten := rfl

end ResetCore

section Flags
variable (word : Word) (i : Instr) (s : State)

@[simp] theorem busy_accept : (accept word i s).busy = true := rfl
@[simp] theorem busy_retire : (retire s).busy = false := rfl
@[simp] theorem fault_clearError : (clearError s).fault = false := rfl
@[simp] theorem fault_accept : (accept word i s).fault = s.fault := rfl
@[simp] theorem fault_retire : (retire s).fault = s.fault := rfl
@[simp] theorem fault_takeEvent (rest : List PortEvent) : (takeEvent rest s).fault = s.fault := rfl
@[simp] theorem fault_newChoice : (newChoice s).fault = s.fault := rfl
@[simp] theorem busy_newChoice : (newChoice s).busy = s.busy := rfl
@[simp] theorem busy_takeEvent (rest : List PortEvent) : (takeEvent rest s).busy = s.busy := rfl

theorem busy_eq_true : s.busy = true ↔ ∃ i, s.engine = .busy i := by
  unfold State.busy
  split <;> simp_all

theorem busy_eq_false : s.busy = false ↔ s.engine = .idle := by
  unfold State.busy
  split <;> simp_all

theorem fault_eq_true : s.fault = true ↔ s.errcode ≠ .noError := by simp [State.fault]

theorem fault_eq_false : s.fault = false ↔ s.errcode = .noError := by simp [State.fault]

end Flags

end Sys2Proof.Machine
end

