-- ==== Sys2Proof/Laws/Ops.lean ====
section
/-! SUPPORT. Everything each shared operation of Machine/Ops.lean can do. -/

namespace Sys2Proof.Machine

section RaiseError
variable (code : ErrCode) (info : Word) (s : State)

theorem raiseError_of_noError (h : s.errcode = .noError) :
    raiseError code info s = { s with errcode := code, errcmd := info } := if_pos h

theorem raiseError_of_error (h : s.errcode ≠ .noError) : raiseError code info s = s := if_neg h

/-- An error is recorded, or the state is as it was (R124). -/
theorem raiseError_cases :
    (s.errcode = .noError ∧ raiseError code info s = { s with errcode := code, errcmd := info }) ∨
      (s.errcode ≠ .noError ∧ raiseError code info s = s) := by
  by_cases h : s.errcode = .noError
  · exact .inl ⟨h, raiseError_of_noError code info s h⟩
  · exact .inr ⟨h, raiseError_of_error code info s h⟩

/-- Error recording changes ERRCODE and ERRCMD alone (R124). -/
theorem raiseError_frame :
    raiseError code info s =
      { s with errcode := (raiseError code info s).errcode, errcmd := (raiseError code info s).errcmd } := by
  obtain ⟨-, h⟩ | ⟨-, h⟩ := raiseError_cases code info s <;> rw [h]

@[simp] theorem raiseError_lastcmd : (raiseError code info s).lastcmd = s.lastcmd := by rw [raiseError_frame]
@[simp] theorem raiseError_engine : (raiseError code info s).engine = s.engine := by rw [raiseError_frame]
@[simp] theorem raiseError_done : (raiseError code info s).done = s.done := by rw [raiseError_frame]
@[simp] theorem raiseError_ie : (raiseError code info s).ie = s.ie := by rw [raiseError_frame]
@[simp] theorem raiseError_gfres : (raiseError code info s).gfres = s.gfres := by rw [raiseError_frame]
@[simp] theorem raiseError_key : (raiseError code info s).key = s.key := by rw [raiseError_frame]
@[simp] theorem raiseError_st : (raiseError code info s).st = s.st := by rw [raiseError_frame]
@[simp] theorem raiseError_mblk : (raiseError code info s).mblk = s.mblk := by rw [raiseError_frame]
@[simp] theorem raiseError_h : (raiseError code info s).h = s.h := by rw [raiseError_frame]
@[simp] theorem raiseError_w : (raiseError code info s).w = s.w := by rw [raiseError_frame]
@[simp] theorem raiseError_env : (raiseError code info s).env = s.env := by rw [raiseError_frame]
@[simp] theorem raiseError_rdata : (raiseError code info s).rdata = s.rdata := by rw [raiseError_frame]
@[simp] theorem raiseError_draws : (raiseError code info s).draws = s.draws := by rw [raiseError_frame]
@[simp] theorem raiseError_unwritten : (raiseError code info s).unwritten = s.unwritten := by rw [raiseError_frame]

end RaiseError

section CompleteWith
variable {α : Type} (operands : Option α) (effect : α → State → State) (anyEffect : State → State) (s : State)

@[simp] theorem completeWith_some (x : α) :
    completeWith (some x) effect anyEffect s = .next (retire (effect x s)) := rfl

theorem completeWith_none_report (h : s.unwritten = .report) :
    completeWith (none : Option α) effect anyEffect s = .fault .unwrittenOperand := by
  simp [completeWith, h]

theorem completeWith_none_drawAny (h : s.unwritten = .drawAny) :
    completeWith (none : Option α) effect anyEffect s = .next (retire (anyEffect s)) := by
  simp [completeWith, h]

/-- A completion that answers a next state ran on written operands, or drew ANY (R25, R129). -/
theorem completeWith_cases {t : State} (h : completeWith operands effect anyEffect s = .next t) :
    (∃ x, operands = some x ∧ t = retire (effect x s)) ∨
      (operands = none ∧ s.unwritten = .drawAny ∧ t = retire (anyEffect s)) := by
  unfold completeWith at h
  split at h
  · rename_i x
    exact .inl ⟨x, rfl, by simpa using h.symm⟩
  · split at h
    · simp at h
    · rename_i hu
      exact .inr ⟨rfl, hu, by simpa using h.symm⟩

/-- A completion never refuses. -/
theorem completeWith_not_refused (r : Refusal) : completeWith operands effect anyEffect s ≠ .refused r := by
  unfold completeWith
  split
  · simp
  · split <;> simp

end CompleteWith

section RoundIndex
variable (i : Instr) (n : Byte) (run : Fin 15 → State → Host.Outcome State Fault Refusal) (s : State)

theorem withRoundIndex_of_le (h : n.toNat ≤ 14) :
    withRoundIndex i n run s = run ⟨n.toNat, by omega⟩ s := by
  unfold withRoundIndex
  rw [(roundIndex_eq_some n ⟨n.toNat, by omega⟩).2 rfl]

theorem withRoundIndex_of_gt (h : 14 < n.toNat) :
    withRoundIndex i n run s = .next (raiseError .badOperand (encode i) s) := by
  unfold withRoundIndex
  rw [(roundIndex_eq_none n).2 h]

end RoundIndex

end Sys2Proof.Machine
end

