-- ==== Sys2Proof/Laws/Port.lean ====
section
/-! SUPPORT. The address map, and everything a host transaction can do. -/

namespace Sys2Proof.Machine

section AddressMap
variable (a : PortAddr)

theorem byteOffset_lt : byteOffset a < 4096 := by
  have := a.isLt
  unfold byteOffset
  omega

/-- The byte offsets of a region's word (R33). -/
def Region.At (r : Region) (off : Nat) : Prop :=
  match r with
  | .cmd => off = 0x000
  | .status => off = 0x004
  | .ctrl => off = 0x008
  | .errcmd => off = 0x00C
  | .gfres => off = 0x010
  | .key j => off = 0x100 + 4 * j.val
  | .st j => off = 0x200 + 4 * j.val
  | .mblk j => off = 0x300 + 4 * j.val
  | .h j => off = 0x400 + 4 * j.val
  | .w t => off = 0x500 + 4 * t.val
  | .reserved => True

/-- A word address lies in the region the address map gives it (R33). -/
theorem regionOf_at : (regionOf a).At (byteOffset a) := by
  have hm : byteOffset a = 4 * a.toNat := rfl
  unfold regionOf
  by_cases h0 : byteOffset a = 0x000
  · rw [if_pos h0]; exact h0
  rw [if_neg h0]
  by_cases h1 : byteOffset a = 0x004
  · rw [if_pos h1]; exact h1
  rw [if_neg h1]
  by_cases h2 : byteOffset a = 0x008
  · rw [if_pos h2]; exact h2
  rw [if_neg h2]
  by_cases h3 : byteOffset a = 0x00C
  · rw [if_pos h3]; exact h3
  rw [if_neg h3]
  by_cases h4 : byteOffset a = 0x010
  · rw [if_pos h4]; exact h4
  rw [if_neg h4]
  by_cases h5 : 0x100 ≤ byteOffset a ∧ byteOffset a ≤ 0x1EC
  · rw [dif_pos h5]; simp only [Region.At]; omega
  rw [dif_neg h5]
  by_cases h6 : 0x200 ≤ byteOffset a ∧ byteOffset a ≤ 0x20C
  · rw [dif_pos h6]; simp only [Region.At]; omega
  rw [dif_neg h6]
  by_cases h7 : 0x300 ≤ byteOffset a ∧ byteOffset a ≤ 0x33C
  · rw [dif_pos h7]; simp only [Region.At]; omega
  rw [dif_neg h7]
  by_cases h8 : 0x400 ≤ byteOffset a ∧ byteOffset a ≤ 0x41C
  · rw [dif_pos h8]; simp only [Region.At]; omega
  rw [dif_neg h8]
  by_cases h9 : 0x500 ≤ byteOffset a ∧ byteOffset a ≤ 0x5FC
  · rw [dif_pos h9]; simp only [Region.At]; omega
  rw [dif_neg h9]
  trivial

theorem offset_of_region {r : Region} (h : regionOf a = r) : r.At (byteOffset a) := h ▸ regionOf_at a

theorem regionOf_cmd : regionOf a = .cmd ↔ byteOffset a = 0x000 :=
  ⟨offset_of_region a, fun h => by unfold regionOf; rw [if_pos h]⟩

theorem regionOf_status : regionOf a = .status ↔ byteOffset a = 0x004 :=
  ⟨offset_of_region a, fun h => by unfold regionOf; rw [if_neg (by omega), if_pos h]⟩

theorem regionOf_ctrl : regionOf a = .ctrl ↔ byteOffset a = 0x008 :=
  ⟨offset_of_region a, fun h => by unfold regionOf; rw [if_neg (by omega), if_neg (by omega), if_pos h]⟩

theorem regionOf_errcmd : regionOf a = .errcmd ↔ byteOffset a = 0x00C :=
  ⟨offset_of_region a, fun h => by
    unfold regionOf; rw [if_neg (by omega), if_neg (by omega), if_neg (by omega), if_pos h]⟩

theorem regionOf_gfres : regionOf a = .gfres ↔ byteOffset a = 0x010 :=
  ⟨offset_of_region a, fun h => by
    unfold regionOf; rw [if_neg (by omega), if_neg (by omega), if_neg (by omega), if_neg (by omega), if_pos h]⟩

theorem regionOf_key (j : Fin 60) : regionOf a = .key j ↔ byteOffset a = 0x100 + 4 * j.val :=
  ⟨offset_of_region a, fun h => by
    have := j.isLt
    unfold regionOf
    rw [if_neg (by omega), if_neg (by omega), if_neg (by omega), if_neg (by omega), if_neg (by omega),
      dif_pos (by omega : 0x100 ≤ byteOffset a ∧ byteOffset a ≤ 0x1EC)]
    congr 1
    apply Fin.ext
    simp only
    omega⟩

theorem regionOf_st (j : Fin 4) : regionOf a = .st j ↔ byteOffset a = 0x200 + 4 * j.val :=
  ⟨offset_of_region a, fun h => by
    have := j.isLt
    unfold regionOf
    rw [if_neg (by omega), if_neg (by omega), if_neg (by omega), if_neg (by omega), if_neg (by omega), dif_neg (by omega),
      dif_pos (by omega : 0x200 ≤ byteOffset a ∧ byteOffset a ≤ 0x20C)]
    congr 1
    apply Fin.ext
    simp only
    omega⟩

theorem regionOf_mblk (j : Fin 16) : regionOf a = .mblk j ↔ byteOffset a = 0x300 + 4 * j.val :=
  ⟨offset_of_region a, fun h => by
    have := j.isLt
    unfold regionOf
    rw [if_neg (by omega), if_neg (by omega), if_neg (by omega), if_neg (by omega), if_neg (by omega), dif_neg (by omega), dif_neg (by omega),
      dif_pos (by omega : 0x300 ≤ byteOffset a ∧ byteOffset a ≤ 0x33C)]
    congr 1
    apply Fin.ext
    simp only
    omega⟩

theorem regionOf_h (j : Fin 8) : regionOf a = .h j ↔ byteOffset a = 0x400 + 4 * j.val :=
  ⟨offset_of_region a, fun h => by
    have := j.isLt
    unfold regionOf
    rw [if_neg (by omega), if_neg (by omega), if_neg (by omega), if_neg (by omega), if_neg (by omega), dif_neg (by omega), dif_neg (by omega), dif_neg (by omega),
      dif_pos (by omega : 0x400 ≤ byteOffset a ∧ byteOffset a ≤ 0x41C)]
    congr 1
    apply Fin.ext
    simp only
    omega⟩

theorem regionOf_w (t : Fin 64) : regionOf a = .w t ↔ byteOffset a = 0x500 + 4 * t.val :=
  ⟨offset_of_region a, fun h => by
    have := t.isLt
    unfold regionOf
    rw [if_neg (by omega), if_neg (by omega), if_neg (by omega), if_neg (by omega), if_neg (by omega), dif_neg (by omega), dif_neg (by omega), dif_neg (by omega), dif_neg (by omega),
      dif_pos (by omega : 0x500 ≤ byteOffset a ∧ byteOffset a ≤ 0x5FC)]
    congr 1
    apply Fin.ext
    simp only
    omega⟩

end AddressMap

section Transactions
variable (a : PortAddr) (v word : Word) (s : State)

/-- Everything the issue procedure can do (R121). -/
theorem issue_cases :
    (s.errcode ≠ .noError ∧ issue word s = s) ∨
      (s.errcode = .noError ∧ s.busy = true ∧ issue word s = { s with errcode := .busyCmd, errcmd := word }) ∨
      (s.errcode = .noError ∧ s.busy = false ∧
        ((decode word = .badOpcode ∧ issue word s = { s with errcode := .badOpcode, errcmd := word }) ∨
          (decode word = .badOperand ∧ issue word s = { s with errcode := .badOperand, errcmd := word }) ∨
          (decode word = .ok (.gfInv 0) ∧ issue word s = { s with errcode := .divZero, errcmd := word }) ∨
          ∃ i, decode word = .ok i ∧ i ≠ .gfInv 0 ∧ issue word s = accept word i s)) := by
  by_cases hf : s.errcode = .noError
  · refine .inr ?_
    have hff : s.fault = false := (fault_eq_false s).2 hf
    by_cases hb : s.busy = true
    · exact .inl ⟨hf, hb, by simp [issue, hff, hb, raiseError_of_noError, hf]⟩
    · have hb : s.busy = false := by simpa using hb
      refine .inr ⟨hf, hb, ?_⟩
      cases hd : decode word with
      | badOpcode => exact .inl ⟨rfl, by simp [issue, hff, hb, hd, raiseError_of_noError, hf]⟩
      | badOperand => exact .inr (.inl ⟨rfl, by simp [issue, hff, hb, hd, raiseError_of_noError, hf]⟩)
      | ok i =>
        by_cases hi : i = .gfInv 0
        · exact .inr (.inr (.inl ⟨by rw [hi], by
            simp [issue, hff, hb, hd, hi, invertsZero, raiseError_of_noError, hf]⟩))
        · exact .inr (.inr (.inr ⟨i, rfl, hi, by
            simp only [issue, hff, hb, hd, invertsZero, beq_iff_eq, hi, if_false, Bool.false_eq_true]⟩))
  · exact .inl ⟨hf, by simp [issue, (fault_eq_true s).2 hf]⟩

/-- What a read finds does not depend on the model's own fields of the environment, the read data and the draws. -/
theorem peek_frame (r : Region) (env : List PortEvent) (rdata : Option Word) (draws : Nat) :
    peek r { s with env := env, rdata := rdata, draws := draws } = peek r s := by
  cases r <;> rfl

@[simp] theorem peek_takeEvent (r : Region) (rest : List PortEvent) : peek r (takeEvent rest s) = peek r s := peek_frame s r ..
@[simp] theorem peek_newChoice (r : Region) : peek r (newChoice s) = peek r s := peek_frame s r ..
@[simp] theorem peek_returnWord (r : Region) : peek r (returnWord v s) = peek r s := peek_frame s r ..

/-- While IDLE no read finds the ANY of R38. -/
theorem peek_ne_any_of_idle (r : Region) (h : s.engine = .idle) : peek r s ≠ .any := by
  cases r <;> simp [peek, unlessBusy, State.busy, h, foundWord] <;> split <;> simp

/-- Everything a host read can do (R37, R38, R25 (a)). -/
theorem hostRead_cases :
    (∃ v, peek (regionOf a) s = .value v ∧ hostRead a s = .next (returnWord v s)) ∨
      (peek (regionOf a) s = .any ∧ hostRead a s = .next (returnAny s)) ∨
      (peek (regionOf a) s = .unwritten ∧ s.unwritten = .report ∧ hostRead a s = .fault .unwrittenRead) ∨
      (peek (regionOf a) s = .unwritten ∧ s.unwritten = .drawAny ∧
        hostRead a s = .next (returnWord (Config.anyIdleWord s.draws a) s)) := by
  cases hp : peek (regionOf a) s with
  | value v => exact .inl ⟨v, rfl, by simp [hostRead, hp]⟩
  | any => exact .inr (.inl ⟨rfl, by simp [hostRead, hp]⟩)
  | unwritten =>
    cases hu : s.unwritten with
    | report => exact .inr (.inr (.inl ⟨rfl, rfl, by simp [hostRead, hp, hu]⟩))
    | drawAny => exact .inr (.inr (.inr ⟨rfl, rfl, by simp [hostRead, hp, hu]⟩))

/-- A write of a data array is the data write of R39, any other is one of R39's other rows. -/
theorem hostWrite_data (h : (regionOf a).isData = true) : hostWrite a v s = writeData a v s := by
  unfold hostWrite
  cases hr : regionOf a <;> simp_all [Region.isData]

theorem hostWrite_cases :
    (regionOf a = .cmd ∧ hostWrite a v s = issue v s) ∨
      (regionOf a = .status ∧ hostWrite a v s = writeStatus v s) ∨
      (regionOf a = .ctrl ∧ hostWrite a v s = writeCtrl v s) ∨
      ((regionOf a = .errcmd ∨ regionOf a = .gfres ∨ regionOf a = .reserved) ∧ hostWrite a v s = s) ∨
      ((regionOf a).isData = true ∧ hostWrite a v s = writeData a v s) := by
  unfold hostWrite
  cases regionOf a <;> simp [Region.isData]

/-- Storing a data word changes the data arrays alone (R39). -/
theorem storeData_frame (r : Region) :
    storeData r v s =
      { s with
        key := (storeData r v s).key
        st := (storeData r v s).st
        mblk := (storeData r v s).mblk
        h := (storeData r v s).h
        w := (storeData r v s).w } := by
  cases r <;> simp [storeData]

end Transactions

end Sys2Proof.Machine
end

