-- ==== Sys2Proof/Laws/Step.lean ====
section
/-! SUPPORT. Everything a step can do. -/

namespace Sys2Proof.Machine

theorem step_of_nil {s : State} (h : s.env = []) : step s = engineTurn (takeEvent [] s) := by
  simp [step, h, playEvent]

theorem step_of_cons {s : State} {e : PortEvent} {rest : List PortEvent} (h : s.env = e :: rest) :
    step s = playEvent e (takeEvent rest s) := by
  simp [step, h]

/-- A step that answers a next state: a turn of the engine (with nothing pending, or the completion of the pending
command), a read, a write, or a reset (R31, R42, R135). -/
theorem step_cases {s t : State} (h : step s = .next t) :
    ∃ rest,
      (s.engine = .idle ∧ t = takeEvent rest s) ∨
        (∃ i, s.engine = .busy i ∧ exec i (newChoice (takeEvent rest s)) = .next t) ∨
        (∃ a, s.env = .read a :: rest ∧ hostRead a (takeEvent rest s) = .next t) ∨
        (∃ a v, s.env = .write a v :: rest ∧ t = hostWrite a v (newChoice (takeEvent rest s))) ∨
        (s.env = .rst :: rest ∧ t = resetCore (newChoice (takeEvent rest s))) := by
  have turn : ∀ rest, engineTurn (takeEvent rest s) = .next t →
      (s.engine = .idle ∧ t = takeEvent rest s) ∨ ∃ i, s.engine = .busy i ∧ exec i (newChoice (takeEvent rest s)) = .next t := by
    intro rest ht
    unfold engineTurn at ht
    rw [takeEvent_engine] at ht
    cases he : s.engine with
    | idle => exact .inl ⟨rfl, by simpa [he] using ht.symm⟩
    | busy i => exact .inr ⟨i, rfl, by simpa [he] using ht⟩
  cases he : s.env with
  | nil =>
    rw [step_of_nil he] at h
    exact ⟨[], (turn [] h).elim .inl fun h => .inr (.inl h)⟩
  | cons e rest =>
    rw [step_of_cons he] at h
    refine ⟨rest, ?_⟩
    cases e with
    | engine => exact (turn rest h).elim .inl fun h => .inr (.inl h)
    | read a => exact .inr (.inr (.inl ⟨a, rfl, h⟩))
    | write a v => exact .inr (.inr (.inr (.inl ⟨a, v, rfl, by simpa [playEvent] using h.symm⟩)))
    | rst => exact .inr (.inr (.inr (.inr ⟨rfl, by simpa [playEvent] using h.symm⟩)))

end Sys2Proof.Machine
end

