-- ==== Sys2Proof/Laws/HostScript.lean ====
section
/-! SUPPORT. What the host's waiting does (30_encoding.md rule R53, 46_host_procedures.md rule R110), which offsets have a
transaction, and which runs have a result. -/

namespace Sys2Proof.Machine

@[simp] theorem regionOf_statusAddr : regionOf statusAddr = .status := by decide +kernel

/-- Exactly the byte offsets of the window's words have a transaction (R30, R32, R41). -/
theorem offsetAddr_eq_some {off : Nat} {a : PortAddr} : offsetAddr off = some a ↔ off = byteOffset a := by
  have ha := a.isLt
  rw [offsetAddr, byteOffset, Option.ite_none_right_eq_some, Option.some_inj, ← BitVec.toNat_inj, BitVec.toNat_ofNat]
  omega

/-- Bit 0 of STATUS is BUSY (R15). -/
@[simp] theorem statusWord_bit_zero (s : State) : s.statusWord[0] = s.busy := by
  rw [BitVec.getElem_eq_testBit_toNat, State.statusWord, BitVec.toNat_append]
  cases s.busy <;> simp

variable (r : HostRun)

/-- The state after a poll: STATUS is read, and nothing else happens (R37, R38, R40). -/
def polled (s : State) : State := { s with rdata := some s.statusWord }

/-- A poll reads STATUS: while BUSY the loop goes round; while IDLE it is left. -/
theorem poll_eq (how : Waiting) (leave : Word → HostRun → HostRun) :
    poll how leave r =
      .next (if r.core.busy then goRound how (HostRun.bind { r with core := polled r.core } "s" r.core.statusWord)
        else leave r.core.statusWord (HostRun.bind { r with core := polled r.core } "s" r.core.statusWord)) := by
  have hs : step { r.core with env := .read statusAddr :: r.core.env } = .next (polled r.core) := by
    rw [step_of_cons rfl]
    simp [playEvent, hostRead, peek, polled, takeEvent, returnWord, State.statusWord, State.fault, State.busy]
  simp [poll, readThen, onCore, hs, State.readData, polled]

/-- The host's turn at a line. -/
theorem hostTurn_of_cons {line : ScriptLine} {rest : List ScriptLine} (he : r.ended = none) (hl : r.lines = line :: rest) :
    hostTurn r = runLine line rest r := by
  unfold hostTurn
  split <;> simp_all

/-- While BUSY the host stays at its `wait`, however often it polls (R53). -/
theorem hostTurn_wait_of_busy {rest : List ScriptLine} (he : r.ended = none) (hl : r.lines = .wait :: rest)
    (hb : r.core.busy = true) : ∃ r', hostTurn r = .next r' ∧ r'.lines = r.lines ∧ r'.core.engine = r.core.engine := by
  refine ⟨_, (hostTurn_of_cons r he hl).trans (poll_eq r .polling fun _ r => { r with lines := rest }), ?_⟩
  simp [hb, goRound, HostRun.bind, polled]

/-- Once IDLE one poll ends the `wait`, with `s` the word of STATUS (R53, 20_memory.md rule R43). -/
theorem hostTurn_wait_of_idle {rest : List ScriptLine} (he : r.ended = none) (hl : r.lines = .wait :: rest)
    (hb : r.core.busy = false) :
    ∃ r', hostTurn r = .next r' ∧ r'.lines = rest ∧ r'.names.lookup "s" = some r.core.statusWord := by
  refine ⟨_, (hostTurn_of_cons r he hl).trans (poll_eq r .polling fun _ r => { r with lines := rest }), ?_⟩
  simp [hb, HostRun.bind]

/-- While BUSY a host that waits for irq goes to sleep, its WaitIdle still to run (R110). -/
theorem hostTurn_waitIdle_irq_of_busy {rest : List ScriptLine} (he : r.ended = none) (hl : r.lines = .waitIdle .irq :: rest)
    (hb : r.core.busy = true) : ∃ r', hostTurn r = .next r' ∧ r'.lines = .waitIrq :: .waitIdle .irq :: rest := by
  refine ⟨_, (hostTurn_of_cons r he hl).trans (poll_eq r .irq (abortOnFault rest)), ?_⟩
  simp [hb, hl, goRound, HostRun.bind]

/-- Once IDLE the next poll leaves WaitIdle, with HostFault exactly where an error is recorded (R110). -/
theorem hostTurn_waitIdle_of_idle {how : Waiting} {rest : List ScriptLine} (he : r.ended = none)
    (hl : r.lines = .waitIdle how :: rest) (hb : r.core.busy = false) :
    hostTurn r = .next (abortOnFault rest r.core.statusWord
      (HostRun.bind { r with core := polled r.core } "s" r.core.statusWord)) := by
  simpa [hb] using (hostTurn_of_cons r he hl).trans (poll_eq r how (abortOnFault rest))

/-- The sleep lasts while irq is low and ends once it is high, with no transaction (R110, R130). -/
theorem hostTurn_waitIrq {rest : List ScriptLine} (he : r.ended = none) (hl : r.lines = .waitIrq :: rest) :
    hostTurn r = .next (if r.core.irq then { r with lines := rest } else r) :=
  hostTurn_of_cons r he hl

/-- A line at an offset that is no word of the window ends the host's operation, with the core as it is (log entry 7). -/
theorem atOffset_none {off : Nat} (h : offsetAddr off = none)
    (transact : PortAddr → HostRun → Host.Outcome HostRun Fault Refusal) :
    atOffset off transact r = .next { r with ended := some (.noTransaction off) } := by
  simp [atOffset, h]

/-- An operation that aborted has no result (R110). -/
theorem result_of_ended {α : Type} {value : α} (h : r.ended ≠ none) : r.result value = none := by
  simp [HostRun.result, h]

end Sys2Proof.Machine
end

