-- ==== Sys2Proof/Laws/Operands.lean ====
section
/-! SUPPORT. When the operands of a command are written (10_state.md rule R25), and what they are. -/

namespace Sys2Proof.Machine

variable {α : Type} {n : Nat}

theorem allWritten_eq_some_iff_written (v : Vector (Option α) n) (u : Vector α n) :
    allWritten v = some u ↔ v = written u := by
  rw [allWritten_eq_some_iff]
  constructor
  · intro h
    apply Vector.ext
    intro i hi
    rw [getElem_written]
    exact h ⟨i, hi⟩
  · rintro rfl i
    simp

section
variable (s : State)

theorem stBytes_eq_some (v : Vector Byte 16) : s.stBytes = some v ↔ s.st = written v :=
  allWritten_eq_some_iff_written _ _

theorem mblkBytes_eq_some (v : Vector Byte 64) : s.mblkBytes = some v ↔ s.mblk = written v :=
  allWritten_eq_some_iff_written _ _

theorem keyBytes_eq_some (v : Vector Byte 240) : s.keyBytes = some v ↔ s.key = written v :=
  allWritten_eq_some_iff_written _ _

theorem hWords_eq_some (v : Vector Word 8) : s.hWords = some v ↔ s.h = written v :=
  allWritten_eq_some_iff_written _ _

theorem wWords_eq_some (v : Vector Word 64) : s.wWords = some v ↔ s.w = written v :=
  allWritten_eq_some_iff_written _ _

theorem rawKey_eq_some (v : Vector Byte 32) : s.rawKey = some v ↔ ∀ k : Fin 32, s.key[k.val] = some v[k] := by
  unfold State.rawKey
  rw [allWritten_eq_some_iff]
  simp

theorem roundKey_eq_some (r : Fin 15) (v : Vector Byte 16) :
    s.roundKey r = some v ↔ ∀ k : Fin 16, s.key[16 * r.val + k.val] = some v[k] := by
  unfold State.roundKey
  rw [allWritten_eq_some_iff]
  simp

theorem stBytes_exists : (∃ v, s.stBytes = some v) ↔ ∀ k : Fin 16, s.st[k].isSome := allWritten_isSome _

theorem mblkBytes_exists : (∃ v, s.mblkBytes = some v) ↔ ∀ k : Fin 64, s.mblk[k].isSome := allWritten_isSome _

theorem keyBytes_exists : (∃ v, s.keyBytes = some v) ↔ ∀ k : Fin 240, s.key[k].isSome := allWritten_isSome _

theorem hWords_exists : (∃ v, s.hWords = some v) ↔ ∀ k : Fin 8, s.h[k].isSome := allWritten_isSome _

theorem wWords_exists : (∃ v, s.wWords = some v) ↔ ∀ k : Fin 64, s.w[k].isSome := allWritten_isSome _

theorem rawKey_exists : (∃ v, s.rawKey = some v) ↔ ∀ k : Fin 32, s.key[k.val].isSome := by
  unfold State.rawKey
  rw [allWritten_isSome]
  simp

theorem roundKey_exists (r : Fin 15) :
    (∃ v, s.roundKey r = some v) ↔ ∀ k : Fin 16, s.key[16 * r.val + k.val].isSome := by
  unfold State.roundKey
  rw [allWritten_isSome]
  simp

end

end Sys2Proof.Machine
end

