-- ==== Sys2Proof/Laws/PerInstr.lean ====
section
/-! SUPPORT. Statements made per instruction, one lemma per constructor. -/

namespace Sys2Proof.Laws.EncodedFields

/-- The four fields of an encoded command (R46, R53), and the opcode map's command of them (R48). -/
def Statement (i : Instr) : Prop :=
  opcField (encode i) = i.opcode ∧ aField (encode i) = i.fieldA ∧ bField (encode i) = i.fieldB ∧
    rsvField (encode i) = 0 ∧ command i.opcode i.fieldA i.fieldB = some i

theorem of_command {i : Instr} (h : command i.opcode i.fieldA i.fieldB = some i) : Statement i := by
  refine ⟨?_, ?_, ?_, ?_, h⟩ <;> simp [encode]

theorem nop : Statement .nop := of_command rfl
theorem gfMul (a b : Byte) : Statement (.gfMul a b) := of_command rfl
theorem gfInv (a : Byte) : Statement (.gfInv a) := of_command rfl
theorem gfSbox (x : Byte) : Statement (.gfSbox x) := of_command rfl
theorem aesKeyexp : Statement .aesKeyexp := of_command rfl
theorem aesEnc : Statement .aesEnc := of_command rfl
theorem aesArk (n : Byte) : Statement (.aesArk n) := of_command rfl
theorem aesSub : Statement .aesSub := of_command rfl
theorem aesShr : Statement .aesShr := of_command rfl
theorem aesMix : Statement .aesMix := of_command rfl
theorem aesRnd (n : Byte) : Statement (.aesRnd n) := of_command rfl
theorem aesLast (n : Byte) : Statement (.aesLast n) := of_command rfl
theorem shaInit : Statement .shaInit := of_command rfl
theorem shaSched : Statement .shaSched := of_command rfl
theorem shaComp : Statement .shaComp := of_command rfl
theorem shaBlock : Statement .shaBlock := of_command rfl

end Sys2Proof.Laws.EncodedFields
end

