-- ==== Sys2Proof/Laws/Sha.lean ====
section
/-! SUPPORT. The SHA-256 functions, element by element. -/

namespace Sys2Proof.Machine

theorem schedWord_of_lt (w : Vector Word 64) (t : Nat) (h : t < 64) : schedWord w t = w[t] := by
  simp [schedWord, h]

@[simp] theorem getElem_schedStart (m : Vector Byte 64) (t : Nat) (h : t < 64) :
    (schedStart m)[t] =
      if h : t < 16 then beWord m[4 * t] m[4 * t + 1] m[4 * t + 2] m[4 * t + 3] else 0 := by
  unfold schedStart
  rw [Vector.getElem_ofFn]

/-- A pass of the schedule's loop changes the word `W[t]` alone (R90). -/
theorem schedWord_schedPass (w : Vector Word 64) (t : Nat) (h : t < 64) (u : Nat) :
    schedWord (schedPass w t) u = if u = t then schedNext w t else schedWord w u := by
  unfold schedPass schedWord
  simp only [Vector.getElem?_setIfInBounds]
  split_ifs <;> first | rfl | omega

end Sys2Proof.Machine
end

