-- ==== Sys2Proof/Tests/Slice0.lean ====
section
/-! SUPPORT. Small tests, with the expected results of the spec (95_test_vectors.md, and the examples of the rules), and the witnesses
of the statements' hypotheses. -/

namespace Sys2Proof.Tests

open Sys2Proof Sys2Proof.Machine

set_option Elab.async false

/-! ### WellFormed: an ill-formed command for each check of R49 -/

theorem test_wellFormed_refuses_ark_15 : (Instr.aesArk 15).wellFormed = false := by decide
theorem test_wellFormed_refuses_rnd_15 : (Instr.aesRnd 15).wellFormed = false := by decide
theorem test_wellFormed_refuses_last_255 : (Instr.aesLast 255).wellFormed = false := by decide
theorem test_wellFormed_takes_index_14 :
    (Instr.aesArk 14).wellFormed = true ∧ (Instr.aesRnd 14).wellFormed = true ∧ (Instr.aesLast 14).wellFormed = true := by
  decide

/-! ### Decoding: words written out bit by bit from R46 and R48, the fields RSV, B, A and OPC from left to right -/

theorem test_decode_nop : decode 0b00000000_00000000_00000000_00000000#32 = .ok .nop := by decide
theorem test_decode_gfMul : decode 0b00000000_10000011_01010111_00000001#32 = .ok (.gfMul 0x57 0x83) := by decide
theorem test_decode_gfInv : decode 0b00000000_00000000_01010011_00000010#32 = .ok (.gfInv 0x53) := by decide
theorem test_decode_gfSbox : decode 0b00000000_00000000_01010010_00000011#32 = .ok (.gfSbox 0x52) := by decide
theorem test_decode_aesKeyexp : decode 0b00000000_00000000_00000000_00010000#32 = .ok .aesKeyexp := by decide
theorem test_decode_aesEnc : decode 0b00000000_00000000_00000000_00010001#32 = .ok .aesEnc := by decide
theorem test_decode_aesArk : decode 0b00000000_00000000_00001110_00010010#32 = .ok (.aesArk 14) := by decide
theorem test_decode_aesSub : decode 0b00000000_00000000_00000000_00010011#32 = .ok .aesSub := by decide
theorem test_decode_aesShr : decode 0b00000000_00000000_00000000_00010100#32 = .ok .aesShr := by decide
theorem test_decode_aesMix : decode 0b00000000_00000000_00000000_00010101#32 = .ok .aesMix := by decide
theorem test_decode_aesRnd : decode 0b00000000_00000000_00000001_00010110#32 = .ok (.aesRnd 1) := by decide
theorem test_decode_aesLast : decode 0b00000000_00000000_00001110_00010111#32 = .ok (.aesLast 14) := by decide
theorem test_decode_shaInit : decode 0b00000000_00000000_00000000_00100000#32 = .ok .shaInit := by decide
theorem test_decode_shaSched : decode 0b00000000_00000000_00000000_00100001#32 = .ok .shaSched := by decide
theorem test_decode_shaComp : decode 0b00000000_00000000_00000000_00100010#32 = .ok .shaComp := by decide
theorem test_decode_shaBlock : decode 0b00000000_00000000_00000000_00100011#32 = .ok .shaBlock := by decide

/-- The verdicts of 95_test_vectors.md §2.6, and the ends of the reserved ranges of R50. -/
theorem test_decode_rejects :
    ([0x00000100, 0x01000000, 0x00000F12, 0x00000F17, 0x00FF0012, 0x00010002, 0x00000121, 0x00015303] : List Word).all
        (decode · == .badOperand) = true ∧
      ([0x00000004, 0x01000004, 0x0000000F, 0x00000018, 0x0000001F, 0x00000024, 0x000000FF] : List Word).all
        (decode · == .badOpcode) = true := by
  decide

theorem test_decodeTableWord : decodeTableWord 32 0x00835701 = some (.gfMul 0x57 0x83) ∧ decodeTableWord 32 4 = none := by
  decide

/-! ### One command on a small state -/

/-- The next state of an outcome. -/
def after (o : Host.Outcome State Fault Refusal) : Option State :=
  match o with
  | .next s => some s
  | .fault _ => none
  | .refused _ => none

/-- The model fault of an outcome. -/
def faultOf (o : Host.Outcome State Fault Refusal) : Option Fault :=
  match o with
  | .next _ => none
  | .fault f => some f
  | .refused _ => none

/-- The state right after reset, with a given cipher state. -/
def withSt (v : Vector Byte 16) : State := { State.reset with st := written v }

/-- STATE = 00 01 02 … 0f (95_test_vectors.md §2.3). -/
def countSt : State := withSt (Vector.ofFn fun k => BitVec.ofNat 8 k.val)

/-- The plaintext of 95_test_vectors.md §1.4. -/
def plainText : Vector Byte 16 :=
  #v[0xae, 0x2d, 0x8a, 0x57, 0x1e, 0x03, 0xac, 0x9c, 0x9e, 0xb7, 0x6f, 0xac, 0x45, 0xaf, 0x8e, 0x51]

/-- The fifteen round keys of 95_test_vectors.md §1.5. -/
def rkRows : List Nat :=
    [0x603deb1015ca71be2b73aef0857d7781, 0x1f352c073b6108d72d9810a30914dff4, 0x9ba354118e6925afa51a8b5f2067fcde, 0xa8b09c1a93d194cdbe49846eb75d5b9a, 0xd59aecb85bf3c917fee94248de8ebe96, 0xb5a9328a2678a647983122292f6c79b3, 0x812c81addadf48ba24360af2fab8b464, 0x98c5bfc9bebd198e268c3ba709e04214] ++
    [0x68007bacb2df331696e939e46c518d80, 0xc814e20476a9fb8a5025c02d59c58239, 0xde1369676ccc5a71fa2563959674ee15, 0x5886ca5d2e2f31d77e0af1fa27cf73c3, 0x749c47ab18501ddae2757e4f7401905a, 0xcafaaae3e4d59b349adf6acebd10190d, 0xfe4890d1e6188d0b046df344706c631e]

def expandedKey : Vector Byte 240 := Vector.ofFn fun k => romByte rkRows k.val

/-- The raw key of 95_test_vectors.md §1.4 in KEY[0..31] (RK(0) and RK(1)), the rest of KEY unwritten; STATE as given. -/
def keyed (st : Vector Byte 16) : State :=
  { withSt st with key := Vector.ofFn fun k => if k.val < 32 then some (romByte rkRows k.val) else none }

/-- The block of "abc" (95_test_vectors.md §1.7) in MBLK. -/
def abcBlock : Vector Byte 64 :=
  Vector.ofFn fun k =>
    if k.val = 0 then 0x61 else if k.val = 1 then 0x62 else if k.val = 2 then 0x63 else if k.val = 3 then 0x80
    else if k.val = 63 then 0x18 else 0

def hashing : State := { State.reset with mblk := written abcBlock }

/-- R104: STATUS is 0x00000002 after NOP. -/
theorem test_nop : (after (exec .nop State.reset)).map (·.statusWord) = some 2 := by decide +kernel

theorem test_gfMul : (after (exec (.gfMul 0x57 0x83) State.reset)).map (·.gfres) = some 0xC1 := by decide +kernel
theorem test_gfMul_zero : (after (exec (.gfMul 0x5A 0x00) State.reset)).map (·.gfres) = some 0x00 := by decide +kernel
theorem test_gfInv : (after (exec (.gfInv 0x53) State.reset)).map (·.gfres) = some 0xCA := by decide +kernel
theorem test_gfInv_one : (after (exec (.gfInv 0x01) State.reset)).map (·.gfres) = some 0x01 := by decide +kernel
theorem test_gfSbox : (after (exec (.gfSbox 0x53) State.reset)).map (·.gfres) = some 0xED := by decide +kernel
theorem test_gfSbox_zero : (after (exec (.gfSbox 0x00) State.reset)).map (·.gfres) = some 0x63 := by decide +kernel

/-- R73's example: the first byte of RK(2) and the last of RK(14), 95_test_vectors.md §1.5. -/
theorem test_keyExpand :
    [32, 239].map (keyByte (keyExpand (Vector.ofFn fun k => romByte rkRows k.val))) = [0x9b, 0x1e] := by
  decide +kernel

theorem test_aesArk :
    (after (exec (.aesArk 0) (keyed plainText))).map (·.st) =
      some (written #v[0xce, 0x10, 0x61, 0x47, 0x0b, 0xc9, 0xdd, 0x22, 0xb5, 0xc4, 0xc1, 0x5c, 0xc0, 0xd2, 0xf9, 0xd0]) := by
  decide +kernel

theorem test_aesSub :
    (after (exec .aesSub countSt)).map (·.st) =
      some (written #v[0x63, 0x7c, 0x77, 0x7b, 0xf2, 0x6b, 0x6f, 0xc5, 0x30, 0x01, 0x67, 0x2b, 0xfe, 0xd7, 0xab, 0x76]) := by
  decide +kernel

theorem test_aesShr :
    (after (exec .aesShr countSt)).map (·.st) =
      some (written #v[0x00, 0x05, 0x0a, 0x0f, 0x04, 0x09, 0x0e, 0x03, 0x08, 0x0d, 0x02, 0x07, 0x0c, 0x01, 0x06, 0x0b]) := by
  decide +kernel

theorem test_aesMix :
    (after (exec .aesMix countSt)).map (·.st) =
      some (written #v[0x02, 0x07, 0x00, 0x05, 0x06, 0x03, 0x04, 0x01, 0x0a, 0x0f, 0x08, 0x0d, 0x0e, 0x0b, 0x0c, 0x09]) := by
  decide +kernel

/-- Four columns of 95_test_vectors.md §2.3. -/
theorem test_aesMix_columns :
    (after (exec .aesMix (withSt #v[0xdb, 0x13, 0x53, 0x45, 0xf2, 0x0a, 0x22, 0x5c, 0x01, 0, 0, 0, 0xd4, 0xd4, 0xd4,
        0xd5]))).map (·.st) =
      some (written #v[0x8e, 0x4d, 0xa1, 0xbc, 0x9f, 0xdc, 0x58, 0x9d, 0x02, 0x01, 0x01, 0x03, 0xd5, 0xd5, 0xd7, 0xd6]) := by
  decide +kernel

/-- Round 1 of 95_test_vectors.md §1.6. -/
theorem test_aesRnd :
    (after (exec (.aesRnd 1) (keyed #v[0xce, 0x10, 0x61, 0x47, 0x0b, 0xc9, 0xdd, 0x22, 0xb5, 0xc4, 0xc1, 0x5c, 0xc0, 0xd2,
        0xf9, 0xd0]))).map (·.st) =
      some (written #v[0x66, 0xe7, 0x1a, 0xc4, 0x70, 0x62, 0xed, 0x74, 0x24, 0x85, 0x1b, 0xa0, 0xa8, 0x33, 0xe8, 0xbe]) := by
  decide +kernel

theorem test_aesLast :
    (after (exec (.aesLast 0) (keyed plainText))).map (·.st) =
      some (written #v[0x84, 0x46, 0x43, 0xc1, 0x67, 0x63, 0x68, 0xe5, 0x20, 0x0a, 0xd0, 0x2e, 0xeb, 0xa5, 0xe6, 0x10]) := by
  decide +kernel

/-- The known answer of 95_test_vectors.md §1.4. -/
theorem test_encryptBlock :
    encryptBlock expandedKey plainText =
      #v[0x59, 0x1c, 0xcb, 0x10, 0xd4, 0x10, 0xed, 0x26, 0xdc, 0x5b, 0xa7, 0x4a, 0x31, 0x36, 0x28, 0x70] := by
  decide +kernel

theorem test_aesEnc :
    (after (exec .aesEnc { withSt plainText with key := written expandedKey })).map (·.st) =
      some (written #v[0x59, 0x1c, 0xcb, 0x10, 0xd4, 0x10, 0xed, 0x26, 0xdc, 0x5b, 0xa7, 0x4a, 0x31, 0x36, 0x28, 0x70]) := by
  simp [exec, execAesEnc, State.keyBytes, State.stBytes, withSt, bothWritten, after, putSt, retire, test_encryptBlock]

/-- R99: from any H. -/
theorem test_shaInit :
    (after (exec .shaInit { State.reset with h := unwrittenArray 8 })).map (·.h) =
      some (written #v[0x6a09e667, 0xbb67ae85, 0x3c6ef372, 0xa54ff53a, 0x510e527f, 0x9b05688c, 0x1f83d9ab, 0x5be0cd19]) := by
  decide +kernel

/-- R91's example. -/
theorem test_shaSched :
    (after (exec .shaSched hashing)).map (fun t => [t.w[0], t.w[15], t.w[16], t.w[17], t.w[63]]) =
      some [some 0x61626380, some 0x18, some 0x61626380, some 0x000f0000, some 0x12b1edeb] := by
  decide +kernel

/-- The third row of 95_test_vectors.md §2.5. -/
theorem test_shaComp :
    (after (exec .shaComp { State.reset with h := written (Vector.ofFn fun _ => 0), w := written (Vector.ofFn fun _ => 0) })).map
        (·.h) =
      some (written #v[0x7ca51614, 0x425c3ba8, 0xce54dd2f, 0xc2020ae7, 0xb6e574d1, 0x98136d0f, 0xae7e26cc, 0xbf0be7a6]) := by
  decide +kernel

/-- The hash of "abc" from reset (R101's example), with the schedule left in W. -/
theorem test_shaBlock :
    (after (exec .shaBlock hashing)).map (fun t => (t.h, t.w[63])) =
      some (written #v[0xba7816bf, 0x8f01cfea, 0x414140de, 0x5dae2223, 0xb00361a3, 0x96177a9c, 0xb410ff61, 0xf20015ad],
        some 0x12b1edeb) := by
  decide +kernel

/-! ### The port, issue and reset -/

/-- The state right after reset, with one event of the environment to come. -/
def next1 (e : PortEvent) : State := { State.reset with env := [e] }

/-- Issue from reset (95_test_vectors.md §2.6): STATUS and ERRCMD after each word. -/
theorem test_issue_status :
    ([0x00000000, 0x00000100, 0x01000004, 0x00000F12, 0x00000002, 0x00010002, 0x00FFFF01] : List Word).map
        (fun w => (after (step (next1 (.write 0 w)))).map fun t => (t.statusWord, t.errcmd)) =
      [some (0x01, 0), some (0x34, 0x00000100), some (0x24, 0x01000004), some (0x34, 0x00000F12), some (0x14, 0x00000002),
        some (0x34, 0x00010002), some (0x01, 0)] := by
  decide +kernel

/-- A word written while AES_KEYEXP is pending, and a data write then (95_test_vectors.md §2.6): BUSY_CMD, 0x45. -/
theorem test_issue_busy :
    (after (step { next1 (.write 0 4) with engine := .busy .aesKeyexp })).map (fun t => (t.statusWord, t.errcmd)) =
        some (0x45, 4) ∧
      (after (step { next1 (.write 0x7B 4) with engine := .busy .aesKeyexp })).map (fun t => (t.statusWord, t.errcmd)) =
        some (0x55, 0x1EC) := by
  decide +kernel

/-- `wr 0x008, 7`: SRST, and CTRL and STATUS read 0 (95_test_vectors.md §2.6). `wr 0x008, 3` clears the error and keeps IE. -/
theorem test_ctrl :
    (after (step { next1 (.write 2 7) with errcode := .divZero, done := true })).map (fun t => (t.ctrlWord, t.statusWord)) =
        some (0, 0) ∧
      (after (step { next1 (.write 2 3) with errcode := .divZero })).map (fun t => (t.ctrlWord, t.statusWord)) =
        some (1, 0) := by
  decide +kernel

/-- R34: the port word 0x80636261 puts 61 62 63 80 in MBLK[0..3], and reads back. -/
theorem test_packing :
    (after (step (next1 (.write 0xC0 0x80636261)))).map (fun t => (t.mblk.toList.take 5, peek (.mblk 0) t)) =
      some ([some 0x61, some 0x62, some 0x63, some 0x80, none], .value 0x80636261) := by
  decide +kernel

/-- R136 and R107: H[0] reads 0x6a09e667 after reset; `rd 0x100` is an UnwrittenRead. -/
theorem test_reset_reads :
    (after (step (next1 (.read 0x100)))).map (·.rdata) = some (some 0x6a09e667) ∧
      faultOf (step (next1 (.read 0x040))) = some .unwrittenRead := by
  decide +kernel

/-- R129, U2: AES_ENC written to CMD right after reset, and the engine's turn: UnwrittenOperand. -/
theorem test_reset_unwritten_operand :
    faultOf (Host.Core.run core 2 { State.reset with env := [.write 0 0x11, .engine] }) = some .unwrittenOperand := by
  decide +kernel

/-- R131 (b): an acknowledge, then the completion of the same cycle: DONE ends at 1. -/
theorem test_done_not_lost :
    (after (Host.Core.run core 2 { State.reset with env := [.write 1 2, .engine], engine := .busy .nop })).map (·.statusWord) =
      some 2 := by
  decide +kernel

/-! ### A placed command word runs next, from reset -/

/-- The sixteen rows of opcode_table.json, each placed in the reset state with nothing written (ANY, as in the hardware): the step answers a next state with BUSY 0
and DONE 1. (GF_INV of zero is the one that Issue rejects: DIV_ZERO.) -/
theorem test_placed_words_run :
    ([0x000, 0x101, 0x102, 0x103, 0x010, 0x011, 0x012, 0x013, 0x014, 0x015, 0x016, 0x017, 0x020, 0x021, 0x022, 0x023] :
        List Nat).map (fun w => (after (step (State.reset.withFetchWord 32 w))).map (·.statusWord)) =
      List.replicate 16 (some 2) := by
  decide +kernel

theorem test_placed_gfInv_zero :
    (after (step (State.reset.withFetchWord 32 2))).map (fun t => (t.statusWord, t.errcmd)) = some (0x14, 2) := by
  decide +kernel

/-! ### Host scripts and procedures -/

/-- What is left of a script, its bindings and its early end, after a list of turns from reset. -/
def scriptAfter (lines : List ScriptLine) (turns : List Agent) :
    Option (List ScriptLine × List (String × Word) × Option HostEnd) :=
  match runTurns turns (startScript lines State.reset) with
  | .next r => some (r.lines, r.names, r.ended)
  | .fault _ => none
  | .refused _ => none

/-- R53's `wait` after a NOP: polls before the completion read BUSY = 1 and the loop goes round. -/
theorem test_wait_loops :
    scriptAfter [commandLine .nop, .wait] [.host, .host, .host] = some ([.wait], [("s", 1), ("s", 1)], none) := by
  decide +kernel

/-- The first poll after the completion ends it, with STATUS = 0x00000002 (R104's example). -/
theorem test_wait_ends :
    scriptAfter [commandLine .nop, .wait, .check "s" 2] [.host, .host, .engine, .host, .host] =
      some ([], [("s", 2), ("s", 1)], none) := by
  decide +kernel

/-- R110: the trailing WaitIdle of Issue finds the DIV_ZERO of GF_INV 0, code 1, and the BAD_OPCODE of 0x04, code 2. -/
theorem test_issue_aborts :
    (scriptAfter (issueCommand .polling (.gfInv 0)) [.host, .host, .host, .engine]).map (·.2.2) =
        some (some (.hostFault 1)) ∧
      (scriptAfter (issueLines .polling 0x04) [.host, .host, .host]).map (·.2.2) = some (some (.hostFault 2)) := by
  decide +kernel

/-- R110: with IE = 1 the host sleeps after a poll that reads BUSY, and wakes after the completion. -/
theorem test_issue_by_irq :
    (scriptAfter (.wr 0x008 1 :: issueCommand .irq .nop) [.host, .host, .host, .host, .host]).map (·.1) =
        some [.waitIrq, .waitIdle .irq] ∧
      (scriptAfter (.wr 0x008 1 :: issueCommand .irq .nop) [.host, .host, .host, .host, .host, .engine, .host, .host]).map
        (·.1) = some [] := by
  decide +kernel

/-- R110 and R111: no result after the abort HostFault(2); R32: no transaction at offset 0x102. -/
theorem test_aborts_give_no_result :
    expandedKeyOf [] ⟨State.reset, [], [], some (.hostFault 2)⟩ = none ∧
      (scriptAfter [.wr 0x102 0] [.host, .host]).map (·.2.2) = some (some (.noTransaction 0x102)) := by
  decide +kernel

/-- R113's examples: lengths after pad_448 (95_test_vectors.md §1.10). -/
theorem test_pad448 :
    [0, 3, 55, 56, 63, 64].map (fun l => (pad448 (List.replicate l 0)).length) = [56, 56, 56, 120, 120, 120] := by
  decide +kernel

/-- The padded block of "abc" (95_test_vectors.md §1.7). -/
theorem test_flushTail : flushTail ⟨[0x61, 0x62, 0x63], 3⟩ = abcBlock.toList := by decide +kernel

/-! ### Witnesses: states and operands that meet a statement's hypotheses -/

/-- Every element of every array written. -/
def full : State :=
  { State.reset with
    key := written (Vector.ofFn fun k => BitVec.ofNat 8 k.val)
    st := written plainText
    mblk := written abcBlock
    w := written (Vector.ofFn fun t => BitVec.ofNat 32 t.val) }

theorem witness_DecodeInvertsEncode : (Instr.aesLast 14).wellFormed = true ∧ (Instr.gfMul 0xFF 0x00).wellFormed = true := by
  decide

theorem witness_EncodeInvertsDecode : decode 0x00000E17 = .ok (.aesLast 14) := by decide

/-- A word for each clause: a reserved code; a known one that breaks a constraint; a known one that breaks none. -/
theorem witness_DecodeVerdicts :
    (0x18 : Word).toNat % 256 = 0x18 ∧ decode 0x18 = .badOpcode ∧ decode 0x01000000 = .badOperand ∧
      decode 0x00000116 = .ok (.aesRnd 1) := by
  decide

/-- Both sides of the equivalence hold for a word of a row, at the end of the round index's range, and both fail beyond. -/
theorem witness_MatchAndMaskGiveTheCommand :
    decode 0x00000E12 = .ok (.aesArk 14) ∧ (0x00000E12 : Word) &&& 0xFFFF00FF = 0x00000012 ∧
      decode 0x00000F12 = .badOperand := by
  decide

theorem witness_GfInvWritesTheInverse : (0x01 : Byte) ≠ 0 ∧ (0xFF : Byte) ≠ 0 := by decide

theorem witness_RejectedOperandsRecordTheirError :
    State.reset.errcode = .noError ∧ (clearError State.reset).errcode = .noError ∧
      (raiseError .divZero 2 State.reset).errcode ≠ .noError ∧ 14 < (15 : Byte).toNat ∧
      Instr.aesLast 15 ∈ [Instr.aesArk 15, .aesRnd 15, .aesLast 15] := by
  decide

theorem witness_KeyExpansionRecurrence :
    ∀ k : Fin 32, full.key[k.val] = some (Vector.ofFn (n := 32) fun k => BitVec.ofNat 8 k.val)[k] := by
  simp [full]

/-- Every command's operands are written in `full`, with a round index at either end of its range. -/
theorem witness_operandsWritten_aes :
    operandsWritten .aesKeyexp full ∧ operandsWritten .aesEnc full ∧ operandsWritten (.aesArk 0) full ∧
      operandsWritten (.aesArk 14) full ∧ operandsWritten .aesShr full ∧ operandsWritten (.aesRnd 14) full ∧
      operandsWritten (.aesLast 14) full := by
  simp [operandsWritten, operandsWritten.roundKeyWritten, full]

theorem witness_operandsWritten_sha :
    operandsWritten .shaSched full ∧ operandsWritten .shaComp full ∧ operandsWritten .shaBlock full := by
  simp [operandsWritten, full, State.reset]

/-- The commands of those statements answer a next state there (KeyExpansionIsIdempotent, SelfInverseSteps,
CompletionChangesOnlyItsOutputs). -/
theorem witness_completions_answer_next :
    (after (exec .aesKeyexp full)).isSome ∧ (after (execAll [.aesArk 14, .aesArk 14] full)).isSome ∧
      (after (execAll [.aesShr, .aesShr, .aesShr, .aesShr] full)).isSome ∧ (after (exec .shaBlock full)).isSome ∧
      (after (exec (.gfMul 2 3) full)).isSome := by
  decide +kernel

/-- AddRoundKeyXorsTheRoundKey, at both ends of the round index. -/
theorem witness_AddRoundKeyXorsTheRoundKey :
    full.st = written plainText ∧
      (∀ k : Fin 16, full.key[16 * (0 : Fin 15).val + k.val] = some (Vector.ofFn (n := 16) fun k => BitVec.ofNat 8 k.val)[k]) ∧
      ∀ k : Fin 16,
        full.key[16 * (14 : Fin 15).val + k.val] = some (Vector.ofFn (n := 16) fun k => BitVec.ofNat 8 (224 + k.val))[k] := by
  simp [full]

/-- SubBytesAppliesTheSbox, ShiftRowsPermutesTheBytes, MixColumnsMultipliesByTheMatrix, ScheduleRecurrence,
CompressionRounds. -/
theorem witness_written_arrays :
    full.st = written plainText ∧ full.mblk = written abcBlock ∧ full.h = written iv ∧
      full.w = written (Vector.ofFn fun t => BitVec.ofNat 32 t.val) :=
  ⟨rfl, rfl, rfl, rfl⟩

/-- UnwrittenOperandIsReported and UnwrittenOperandDrawsAny: a command with an unwritten operand, in either treatment. -/
theorem witness_unwritten_operand :
    ¬operandsWritten .aesKeyexp State.reset ∧ ¬operandsWritten .aesEnc State.reset ∧
      ¬operandsWritten .shaSched State.reset ∧ ¬operandsWritten .shaComp State.reset ∧
      ¬operandsWritten .shaBlock State.reset ∧ State.reset.unwritten = .report ∧
      ({ State.reset with unwritten := .drawAny } : State).unwritten = .drawAny := by
  unfold operandsWritten
  decide +kernel

theorem witness_AcceptedCommandsCompleteWithoutError :
    Instr.nop.wellFormed = true ∧ Instr.nop ≠ .gfInv 0 ∧ operandsWritten .nop State.reset :=
  ⟨rfl, by decide, trivial⟩

theorem witness_EngineTurnRunsThePendingCommand :
    ({ State.reset with env := [.engine], engine := .busy .nop } : State).env = .engine :: [] ∧
      (State.reset.env = [] ∧ State.reset.engine = .idle) :=
  ⟨rfl, rfl, rfl⟩

theorem witness_WrittenWordIsAcceptedThenExecuted :
    ({ State.reset with env := [.write 0 0x00000E12, .engine] } : State).env = .write 0 0x00000E12 :: .engine :: [] ∧
      State.reset.engine = .idle ∧ State.reset.errcode = .noError ∧ decode 0x00000E12 = .ok (.aesArk 14) ∧
      Instr.aesArk 14 ≠ .gfInv 0 := by
  decide +kernel

theorem witness_PlacedWordRunsNext : decode 0x00000023 = .ok .shaBlock ∧ Instr.shaBlock ≠ .gfInv 0 := by decide

/-- IssueChecksInOrder: a state for each of the three cases, and a word for each verdict. -/
theorem witness_IssueChecksInOrder :
    (next1 (.write 0 4)).env = .write 0 4 :: [] ∧ (raiseError .divZero 2 (next1 (.write 0 4))).errcode ≠ .noError ∧
      (accept 0 .nop (next1 (.write 0 4))).errcode = .noError ∧ (accept 0 .nop (next1 (.write 0 4))).engine ≠ .idle ∧
      decode 4 = .badOpcode ∧ decode 0x100 = .badOperand ∧ decode 2 = .ok (.gfInv 0) ∧ decode 0x102 = .ok (.gfInv 1) := by
  decide +kernel

/-- DataWriteWhileBusyIsDropped, OperandsStayWhileBusy, BusyReadReturns: a busy state with any one event to come. -/
theorem witness_busy (e : PortEvent) : (accept 0 .nop (next1 e)).env = e :: [] ∧ (accept 0 .nop (next1 e)).engine ≠ .idle :=
  ⟨rfl, by simp [accept]⟩

/-- IdleReadReturns, DataWriteStoresTheLanes, DataWriteReadsBack, OtherWritesAreIgnored, ReadsHaveNoSideEffects: an idle
state with any one event to come. -/
theorem witness_idle (e : PortEvent) : (next1 e).env = e :: [] ∧ (next1 e).engine = .idle := ⟨rfl, rfl⟩

/-- The addresses at the two ends of every range of R33, and the region each is in: the clauses about offsets. -/
theorem witness_offsets_low :
    ([0x000, 0x001, 0x002, 0x003, 0x004, 0x005, 0x03F, 0x040, 0x07B, 0x07C, 0x07F] : List PortAddr).map
        (fun a => (4 * a.toNat, regionOf a)) =
      [(0x000, .cmd), (0x004, .status), (0x008, .ctrl), (0x00C, .errcmd), (0x010, .gfres), (0x014, .reserved),
        (0x0FC, .reserved), (0x100, .key 0), (0x1EC, .key 59), (0x1F0, .reserved), (0x1FC, .reserved)] := by
  decide +kernel

theorem witness_offsets_high :
    ([0x080, 0x083, 0x084, 0x0BF, 0x0C0, 0x0CF, 0x0D0, 0x0FF] : List PortAddr).map (fun a => (4 * a.toNat, regionOf a)) =
        [(0x200, .st 0), (0x20C, .st 3), (0x210, .reserved), (0x2FC, .reserved), (0x300, .mblk 0), (0x33C, .mblk 15),
          (0x340, .reserved), (0x3FC, .reserved)] ∧
      ([0x100, 0x107, 0x108, 0x13F, 0x140, 0x17F, 0x180, 0x3FF] : List PortAddr).map
          (fun a => (4 * a.toNat, regionOf a)) =
        [(0x400, .h 0), (0x41C, .h 7), (0x420, .reserved), (0x4FC, .reserved), (0x500, .w 0), (0x5FC, .w 63),
          (0x600, .reserved), (0xFFC, .reserved)] := by
  decide +kernel

/-- IdleReadReturns: a word that is written, and one that is not, in either treatment. -/
theorem witness_IdleReadReturns :
    packWritten full.key[236] full.key[237] full.key[238] full.key[239] = some 0xEFEEEDEC ∧
      packWritten State.reset.key[0] State.reset.key[1] State.reset.key[2] State.reset.key[3] = none ∧
      State.reset.w[63] = none ∧ State.reset.h[7] = some 0x5be0cd19 := by
  decide +kernel

/-- CtrlWriteActions and StatusWriteClearsDone: a written word for each clause. -/
theorem witness_control_words :
    (7 : Word).getLsbD 2 = true ∧ ((3 : Word).getLsbD 2 = false ∧ (3 : Word).getLsbD 1 = true) ∧
      ((1 : Word).getLsbD 2 = false ∧ (1 : Word).getLsbD 1 = false) := by
  decide

/-- ResetForgetsEverything: both kinds of reset. -/
theorem witness_ResetForgetsEverything :
    (next1 .rst).env = .rst :: [] ∧ (next1 (.write 2 4)).env = .write 2 4 :: [] ∧ (4 : Word).getLsbD 2 = true := by
  decide +kernel

/-- AES_KEYEXP just accepted, with the given events to come, in the hardware: a consistent state. -/
def pending (env : List PortEvent) : State :=
  { State.reset with lastcmd := 0x00000010, engine := .busy .aesKeyexp, env := env, unwritten := .drawAny }

theorem decode_pending : decode 0x00000010 = .ok .aesKeyexp := by decide

theorem witness_consistent_pending (env : List PortEvent) : (pending env).Consistent where
  lastcmd_accepted := ⟨.aesKeyexp, decode_pending, by decide⟩
  pending_is_lastcmd i h := by
    simp only [pending, Engine.busy.injEq] at h
    subst h
    exact ⟨decode_pending, rfl⟩
  error_info := rfl
  h_written := by simp [pending, State.reset]

/-- CompletionAfterAcknowledgeKeepsDone: both steps answer a next state. -/
theorem witness_CompletionAfterAcknowledgeKeepsDone :
    (pending [.write 1 2, .engine]).env = .write 1 2 :: .engine :: [] ∧
      (after (Host.Core.run core 2 (pending [.write 1 2, .engine]))).isSome := by
  decide +kernel

/-- StepKeepsConsistency: a step from a consistent state that answers a next state. -/
theorem witness_StepKeepsConsistency : (after (step (pending [.read 1]))).isSome := by decide +kernel

/-- PendingCommandCompletes: the operands written where the model reports an unwritten one. -/
theorem witness_PendingCommandCompletes_report (env : List PortEvent) :
    ({ pending env with key := full.key, unwritten := .report } : State).Consistent ∧
      operandsWritten .aesKeyexp { pending env with key := full.key, unwritten := .report } :=
  ⟨{ witness_consistent_pending env with }, witness_operandsWritten_aes.1⟩

/-- HardwareRunsNeverStop, PendingCommandCompletes: unwritten elements treated as the hardware does, and events other than a
reset. -/
theorem witness_PendingCommandCompletes :
    (pending [.read 1, .write 2 3]).unwritten = .drawAny ∧
      ∀ e ∈ (pending [.read 1, .write 2 3]).env, e ≠ .rst ∧ ∀ v : Word, v.getLsbD 2 = true → e ≠ .write 2 v := by
  refine ⟨rfl, ?_⟩
  simp only [pending, List.mem_cons, List.not_mem_nil, or_false]
  rintro e (rfl | rfl)
  · exact ⟨by simp, fun v _ => by simp⟩
  · refine ⟨by simp, fun v hv h => ?_⟩
    simp only [PortEvent.write.injEq, true_and] at h
    subst h
    simp at hv

/-- DataWriteReadsBack: a data region. -/
theorem witness_DataWriteReadsBack : (regionOf 0x17F).isData = true ∧ (regionOf 0x040).isData = true := by decide +kernel

/-- OperandsStayWhileBusy: an event that is no engine turn and no reset. -/
theorem witness_OperandsStayWhileBusy :
    PortEvent.write 0x040 4 ≠ .engine ∧ PortEvent.write 0x040 4 ≠ .rst ∧ PortEvent.write 0x040 4 ≠ .write 2 4 := by
  decide +kernel

/-- ReadsHaveNoSideEffects: a read that answers a next state, and one of an unwritten word met twice while idle. -/
theorem witness_ReadsHaveNoSideEffects :
    (after (step (next1 (.read 0x3FF)))).isSome ∧
      ({ State.reset with env := [.read 0x040, .read 0x040], unwritten := .drawAny } : State).env = .read 0x040 :: .read 0x040 :: [] ∧
      (after (step { State.reset with env := [.read 0x040, .read 0x040], unwritten := .drawAny })).isSome := by
  decide +kernel

/-- FlushTailIsOneOrTwoBlocks: the ends of both ranges. -/
theorem witness_FlushTailIsOneOrTwoBlocks :
    [0, 55, 56, 63].map (fun l => (flushTail ⟨List.replicate l 0, l⟩).length) = [64, 64, 128, 128] := by
  decide +kernel

end Sys2Proof.Tests
end

section
/-! The state's own statements (10_state.md): what a completion writes, with its operands written (R12, R123) and without
(R25 (b)), and the flags of STATUS and irq (R15, R29, R37). -/

namespace Sys2Proof.Machine

/-! ### The operands of a command -/

theorem bothWritten_exists {α β : Type} (a : Option α) (b : Option β) :
    (∃ x, bothWritten a b = some x) ↔ (∃ x, a = some x) ∧ ∃ y, b = some y := by
  simp [Prod.exists]

/-- RK(n) has its sixteen bytes exactly where the bytes of KEY in its n-th sixteen are written (R20, R75). -/
theorem roundKey_exists_iff_roundKeyWritten (n : Byte) (hn : n.toNat < 15) (s : State) :
    (∃ v, s.roundKey ⟨n.toNat, hn⟩ = some v) ↔ operandsWritten.roundKeyWritten n s := by
  rw [roundKey_exists, operandsWritten.roundKeyWritten]
  constructor
  · intro h k hk
    have := h ⟨k.val % 16, Nat.mod_lt _ (by decide)⟩
    simpa [← hk, Nat.div_add_mod] using this
  · intro h k
    exact h ⟨16 * n.toNat + k.val, by omega⟩ (by dsimp only; omega)

theorem rawKey_exists_iff_lt (s : State) :
    (∃ v, s.rawKey = some v) ↔ ∀ k : Fin 240, k.val < 32 → s.key[k].isSome := by
  rw [rawKey_exists]
  exact ⟨fun h k hk => h ⟨k.val, hk⟩, fun h k => h ⟨k.val, by omega⟩ k.isLt⟩

/-! ### The outputs of a command -/

/-- The field commands, which write GFRES (R66 to R68). -/
def WritesGfres (i : Instr) : Prop := ∃ a b, i ∈ [.gfMul a b, .gfInv a, .gfSbox a]

/-- The AES cipher commands, which write STATE (R80 to R86). -/
def WritesSt (i : Instr) : Prop :=
  ∃ n, i ∈ [.aesEnc, .aesArk n, .aesSub, .aesShr, .aesMix, .aesRnd n, .aesLast n]

/-- `u` is `s` after the writes of the command, whatever the values written. -/
inductive WritesOutputs (s : State) : Instr → State → Prop where
  | nop : WritesOutputs s .nop s
  | gfres {i : Instr} (hi : WritesGfres i) (r : Byte) : WritesOutputs s i (putGfres r s)
  | keyTail (v : Vector Byte 240) : WritesOutputs s .aesKeyexp (putKeyTail v s)
  | st {i : Instr} (hi : WritesSt i) (v : Vector Byte 16) : WritesOutputs s i (putSt v s)
  | init (v : Vector Word 8) : WritesOutputs s .shaInit (putH v s)
  | sched (v : Vector Word 64) : WritesOutputs s .shaSched (putW v s)
  | comp (v : Vector Word 8) : WritesOutputs s .shaComp (putH v s)
  | block (v : Vector Word 8) (w : Vector Word 64) : WritesOutputs s .shaBlock (putH v (putW w s))

/-- What a command with an unwritten operand writes where the model does as the hardware: ANY into every element it writes
(R25 (b)). The commands without array operands have no such case. -/
def anyOutputs : Instr → State → State
  | .aesKeyexp => anyKeyTail
  | .aesEnc | .aesArk _ | .aesSub | .aesShr | .aesMix | .aesRnd _ | .aesLast _ => anySt
  | .shaSched => anyW
  | .shaComp => anyH
  | .shaBlock => fun s => anyH (anyW s)
  | .nop | .gfMul _ _ | .gfInv _ | .gfSbox _ | .shaInit => id

theorem anyOutputs_of_writesSt {i : Instr} (h : WritesSt i) : anyOutputs i = anySt := by
  obtain ⟨n, hn⟩ := h
  simp only [List.mem_cons, List.not_mem_nil, or_false] at hn
  rcases hn with rfl | rfl | rfl | rfl | rfl | rfl | rfl <;> rfl

/-- The outcome `o` is a completion of `i` in `s`: operands that are there exactly where those of R129's list are written, an
effect that writes the outputs of `i` alone, and ANY in them where an operand is missing. -/
def IsCompletion (i : Instr) (s : State) (o : Host.Outcome State Fault Refusal) : Prop :=
  ∃ (α : Type) (operands : Option α) (effect : α → State → State),
    o = completeWith operands effect (anyOutputs i) s ∧
      ((∃ x, operands = some x) ↔ operandsWritten i s) ∧ ∀ x, WritesOutputs s i (effect x s)

section
variable {i : Instr} {s u : State}

/-- A command without array operands completes with its effect. -/
theorem IsCompletion.of_no_operands (hu : WritesOutputs s i u) (hw : operandsWritten i s) :
    IsCompletion i s (.next (retire u)) :=
  ⟨Unit, some (), fun _ _ => u, rfl, by simp [hw], fun _ => hu⟩

/-- AES_ARK, AES_RND and AES_LAST, with an index that R49 admits. -/
theorem IsCompletion.of_roundCommand {n : Byte} {f : Vector Byte 16 → Vector Byte 16 → Vector Byte 16}
    (hn : n.toNat ≤ 14) (hi : WritesSt i)
    (hop : operandsWritten i s ↔ operandsWritten.roundKeyWritten n s ∧ ∀ k : Fin 16, s.st[k].isSome) :
    IsCompletion i s (roundCommand i n f s) := by
  refine ⟨_, bothWritten (s.roundKey ⟨n.toNat, by omega⟩) s.stBytes, fun x => putSt (f x.1 x.2), ?_, ?_,
    fun _ => .st hi _⟩
  · rw [anyOutputs_of_writesSt hi]
    exact withRoundIndex_of_le _ _ _ _ hn
  · rw [bothWritten_exists, roundKey_exists_iff_roundKeyWritten, stBytes_exists, hop]

/-- AES_SUB, AES_SHR and AES_MIX. -/
theorem IsCompletion.of_stateCommand {f : Vector Byte 16 → Vector Byte 16} (hi : WritesSt i)
    (hop : operandsWritten i s ↔ ∀ k : Fin 16, s.st[k].isSome) :
    IsCompletion i s (stateCommand f s) :=
  ⟨_, s.stBytes, fun v => putSt (f v), by rw [anyOutputs_of_writesSt hi]; rfl,
    by rw [stBytes_exists, hop], fun _ => .st hi _⟩

end

/-- What every accepted command does at its completion (R123, R25 (b), R129). -/
theorem exec_isCompletion {i : Instr} (s : State) (hwf : i.wellFormed = true) (hi : i ≠ .gfInv 0) :
    IsCompletion i s (exec i s) := by
  cases i with
  | nop => exact .of_no_operands .nop trivial
  | gfMul a b => exact .of_no_operands (.gfres ⟨a, b, by simp⟩ _) trivial
  | gfInv a =>
    have ha : a ≠ 0 := fun h => hi (by rw [h])
    have hinv : gfInv a = some (expRom (eSub (logRom 0x01) (logRom a))) := if_neg ha
    have hexec : exec (.gfInv a) s = .next (retire (putGfres (expRom (eSub (logRom 0x01) (logRom a))) s)) := by
      rw [exec, execGfInv, hinv]
    rw [hexec]
    exact .of_no_operands (.gfres ⟨a, 0, by simp⟩ _) trivial
  | gfSbox x => exact .of_no_operands (.gfres ⟨x, 0, by simp⟩ _) trivial
  | aesKeyexp =>
    exact ⟨_, s.rawKey, fun raw => putKeyTail (keyExpand raw), rfl, rawKey_exists_iff_lt s, fun _ => .keyTail _⟩
  | aesEnc =>
    refine ⟨_, bothWritten s.keyBytes s.stBytes, fun x => putSt (encryptBlock x.1 x.2), rfl, ?_,
      fun _ => .st ⟨0, by simp⟩ _⟩
    rw [bothWritten_exists, keyBytes_exists, stBytes_exists, operandsWritten]
  | aesArk n => exact .of_roundCommand (by simpa [Instr.wellFormed] using hwf) ⟨n, by simp⟩ .rfl
  | aesSub => exact .of_stateCommand ⟨0, by simp⟩ .rfl
  | aesShr => exact .of_stateCommand ⟨0, by simp⟩ .rfl
  | aesMix => exact .of_stateCommand ⟨0, by simp⟩ .rfl
  | aesRnd n => exact .of_roundCommand (by simpa [Instr.wellFormed] using hwf) ⟨n, by simp⟩ .rfl
  | aesLast n => exact .of_roundCommand (by simpa [Instr.wellFormed] using hwf) ⟨n, by simp⟩ .rfl
  | shaInit => exact .of_no_operands (.init _) trivial
  | shaSched => exact ⟨_, s.mblkBytes, fun m => putW (schedule m), rfl, mblkBytes_exists s, fun _ => .sched _⟩
  | shaComp =>
    refine ⟨_, bothWritten s.hWords s.wWords, fun x => putH (compress x.1 x.2), rfl, ?_, fun _ => .comp _⟩
    rw [bothWritten_exists, hWords_exists, wWords_exists, operandsWritten]
  | shaBlock =>
    refine ⟨_, bothWritten s.hWords s.mblkBytes,
      fun x u => putH (compress x.1 (schedule x.2)) (putW (schedule x.2) u), rfl, ?_, fun _ => .block _ _⟩
    rw [bothWritten_exists, hWords_exists, mblkBytes_exists, operandsWritten]

/-- ANY is written into the outputs of the command alone, and the count of draws goes on. -/
theorem anyOutputs_writesOutputs {i : Instr} {s : State} (h : ¬operandsWritten i s) :
    ∃ u n, WritesOutputs s i u ∧ anyOutputs i s = { u with draws := n } := by
  cases i with
  | nop | gfMul | gfInv | gfSbox | shaInit => exact absurd trivial h
  | aesKeyexp => exact ⟨_, _, .keyTail _, rfl⟩
  | aesEnc | aesSub | aesShr | aesMix => exact ⟨_, _, .st ⟨0, by simp⟩ _, rfl⟩
  | aesArk n | aesRnd n | aesLast n => exact ⟨_, _, .st ⟨n, by simp⟩ _, rfl⟩
  | shaSched => exact ⟨_, _, .sched _, rfl⟩
  | shaComp => exact ⟨_, _, .comp _, rfl⟩
  | shaBlock => exact ⟨_, _, .block _ _, rfl⟩

/-- A completion is the retirement of a state that differs in the command's outputs and the count of draws alone (R12). -/
theorem exec_writesOutputs {i : Instr} {s t : State} (hwf : i.wellFormed = true) (hi : i ≠ .gfInv 0)
    (h : exec i s = .next t) : ∃ u n, WritesOutputs s i u ∧ t = retire { u with draws := n } := by
  obtain ⟨α, operands, effect, hexec, hop, heffect⟩ := exec_isCompletion s hwf hi
  rw [hexec] at h
  obtain ⟨x, -, rfl⟩ | ⟨hnone, -, rfl⟩ := completeWith_cases _ _ _ _ h
  · exact ⟨effect x s, _, heffect x, rfl⟩
  · have hunwritten : ¬operandsWritten i s := by simp [← hop, hnone]
    obtain ⟨u, n, hu, hany⟩ := anyOutputs_writesOutputs hunwritten
    exact ⟨u, n, hu, by rw [hany]⟩

/-- As in the hardware, a command with an unwritten operand completes with ANY in its outputs (R25 (b)). -/
theorem exec_of_unwritten {i : Instr} {s : State} (hwf : i.wellFormed = true) (hu : s.unwritten = .drawAny)
    (h : ¬operandsWritten i s) : exec i s = .next (retire (anyOutputs i s)) := by
  have hi : i ≠ .gfInv 0 := by
    rintro rfl
    exact h trivial
  obtain ⟨α, operands, effect, hexec, hop, -⟩ := exec_isCompletion s hwf hi
  have hnone : operands = none := Option.eq_none_iff_forall_ne_some.2 fun x hx => h (hop.1 ⟨x, hx⟩)
  rw [hexec, hnone, completeWith_none_drawAny _ _ _ hu]

/-! ### STATUS -/

/-- STATUS from its top down: ERRCODE, a zero, FAULT, DONE and BUSY (R37). -/
theorem statusWord_eq_concat (s : State) :
    s.statusWord = ((((0#24 ++ s.errcode.bits).concat false).concat s.fault).concat s.done).concat s.busy := rfl

/-- STATUS without its low four bits is the code of ERRCODE (R15). -/
theorem statusWord_toNat_div (s : State) : s.statusWord.toNat / 16 = s.errcode.bits.toNat := by
  have hcode : (0#24 ++ s.errcode.bits).toNat = s.errcode.bits.toNat := by
    rw [BitVec.toNat_append]
    simp
  have hfault := s.fault.toNat_lt
  have hdone := s.done.toNat_lt
  have hbusy := s.busy.toNat_lt
  rw [statusWord_eq_concat]
  simp only [BitVec.toNat_concat, hcode, Bool.toNat_false]
  omega

theorem busy_eq_engine_ne_idle (s : State) : s.busy = (s.engine != .idle) := by
  rw [Bool.eq_iff_iff, busy_eq_true]
  cases s.engine <;> simp

end Sys2Proof.Machine

open Sys2Proof Sys2Proof.Machine

/-- Settles O35: each accepted command completes by the writes of its outputs and the retirement, and neither touches what the
statement names. -/
theorem completionChangesOnlyItsOutputs : Obligations.CompletionChangesOnlyItsOutputs := by
  unfold Obligations.CompletionChangesOnlyItsOutputs
  intro i s t hwf hi h
  obtain ⟨u, n, hu, rfl⟩ := exec_writesOutputs hwf hi h
  cases hu with
  | nop | keyTail | init | sched | comp | block => simp
  | gfres hi r => simpa using fun h => absurd hi (by simpa [WritesGfres] using h)
  | st hi v => simpa using fun h => absurd hi (by simpa [WritesSt] using h)

/-- Settles O37: such a completion is the retirement after ANY was written into the command's outputs. -/
theorem unwrittenOperandDrawsAny : Obligations.UnwrittenOperandDrawsAny := by
  unfold Obligations.UnwrittenOperandDrawsAny
  intro i s hwf hu hop
  refine ⟨_, exec_of_unwritten hwf hu hop, rfl, rfl, ?_, ?_, ?_, ?_, ?_⟩
  · rintro rfl
    simp +contextual [anyOutputs]
  · intro hst
    simp [anyOutputs_of_writesSt hst]
  · rintro rfl
    simp [anyOutputs]
  · rintro rfl
    simp [anyOutputs]
  · rintro rfl
    simp [anyOutputs]

/-- Settles O43: its low bits are those joined below ERRCODE, which is what is left above them. -/
theorem statusWordLayout : Obligations.StatusWordLayout := by
  unfold Obligations.StatusWordLayout
  intro s
  rw [statusWord_toNat_div]
  refine ⟨?_, ?_, ?_, ?_, ?_⟩
  · rw [← busy_eq_engine_ne_idle, statusWord_eq_concat, BitVec.getLsbD_concat_zero]
  · simp only [statusWord_eq_concat, BitVec.getLsbD_concat_succ, BitVec.getLsbD_concat_zero]
  · simp only [statusWord_eq_concat, BitVec.getLsbD_concat_succ, BitVec.getLsbD_concat_zero, State.fault]
  · simp only [statusWord_eq_concat, BitVec.getLsbD_concat_succ, BitVec.getLsbD_concat_zero]
  · cases s.errcode <;> rfl

/-- Settles O44: FAULT is a recorded error (R15). -/
theorem irqIsEnabledDoneOrFault : Obligations.IrqIsEnabledDoneOrFault := by
  unfold Obligations.IrqIsEnabledDoneOrFault
  intro s
  rw [State.irq, Bool.and_eq_true, Bool.or_eq_true, fault_eq_true]
end

section
/-! The port's statements (20_memory.md): the address map's ranges (R33), what reads return and that they change nothing
(R37, R38, R40), what data writes store (R34, R35, R39), and the pending command between acceptance and completion (R42, R44). -/

namespace Sys2Proof.Machine

/-! ### The address map (R33) -/

/-- The byte offsets of the data words. -/
def IsDataOffset (off : Nat) : Prop :=
  (0x100 ≤ off ∧ off ≤ 0x1EC) ∨ (0x200 ≤ off ∧ off ≤ 0x20C) ∨ (0x300 ≤ off ∧ off ≤ 0x33C) ∨
    (0x400 ≤ off ∧ off ≤ 0x41C) ∨ (0x500 ≤ off ∧ off ≤ 0x5FC)

/-- The reserved byte offsets. -/
def IsReservedOffset (off : Nat) : Prop :=
  (0x014 ≤ off ∧ off ≤ 0x0FC) ∨ (0x1F0 ≤ off ∧ off ≤ 0x1FC) ∨ (0x210 ≤ off ∧ off ≤ 0x2FC) ∨
    (0x340 ≤ off ∧ off ≤ 0x3FC) ∨ (0x420 ≤ off ∧ off ≤ 0x4FC) ∨ 0x600 ≤ off

section
variable {a b : PortAddr}

/-- The map falls through to the reserved region where no range holds the offset; no range holds a reserved one. -/
theorem regionOf_of_isReservedOffset (h : IsReservedOffset (byteOffset a)) : regionOf a = .reserved := by
  unfold IsReservedOffset at h
  unfold regionOf
  rw [if_neg (by omega), if_neg (by omega), if_neg (by omega), if_neg (by omega), if_neg (by omega), dif_neg (by omega),
    dif_neg (by omega), dif_neg (by omega), dif_neg (by omega), dif_neg (by omega)]

theorem isData_of_isDataOffset (h : IsDataOffset (byteOffset a)) : (regionOf a).isData = true := by
  have hm : byteOffset a = 4 * a.toNat := rfl
  obtain h | h | h | h | h := h
  · rw [(regionOf_key a ⟨(byteOffset a - 0x100) / 4, by omega⟩).2 (by dsimp only; omega)]; rfl
  · rw [(regionOf_st a ⟨(byteOffset a - 0x200) / 4, by omega⟩).2 (by dsimp only; omega)]; rfl
  · rw [(regionOf_mblk a ⟨(byteOffset a - 0x300) / 4, by omega⟩).2 (by dsimp only; omega)]; rfl
  · rw [(regionOf_h a ⟨(byteOffset a - 0x400) / 4, by omega⟩).2 (by dsimp only; omega)]; rfl
  · rw [(regionOf_w a ⟨(byteOffset a - 0x500) / 4, by omega⟩).2 (by dsimp only; omega)]; rfl

/-- A region other than the reserved one has one byte offset. -/
theorem Region.At.unique {r : Region} {m n : Nat} (hr : r ≠ .reserved) (hm : r.At m) (hn : r.At n) : m = n := by
  cases r with
  | reserved => exact absurd rfl hr
  | _ => exact hm.trans hn.symm

theorem regionOf_injective (h : regionOf b = regionOf a) (hr : regionOf a ≠ .reserved) : b = a := by
  have hoff : byteOffset b = byteOffset a := Region.At.unique hr (offset_of_region b h) (regionOf_at a)
  unfold byteOffset at hoff
  exact BitVec.eq_of_toNat_eq (by omega)

end

/-! ### Steps that are a read -/

section
variable {s : State} {a : PortAddr} {rest : List PortEvent}

theorem ctrlWord_eq (s : State) : s.ctrlWord = if s.ie then 1 else 0 := by
  unfold State.ctrlWord
  cases s.ie <;> rfl

theorem unlessBusy_of_idle (h : s.engine = .idle) (r : ReadResult) : unlessBusy s r = r := by
  simp [unlessBusy, (busy_eq_false s).2 h]

theorem busy_of_ne_idle (h : s.engine ≠ .idle) : s.busy = true := by simp [busy_eq_engine_ne_idle, h]

theorem unlessBusy_of_busy (h : s.busy = true) (r : ReadResult) : unlessBusy s r = .any := if_pos h

/-- While BUSY the data words read as ANY (R38). -/
theorem peek_of_busy {r : Region} (h : s.busy = true) (hr : r.isData = true) : peek r s = .any := by
  cases r with
  | cmd | status | ctrl | errcmd | gfres | reserved => cases hr
  | _ => exact unlessBusy_of_busy h _

/-- While BUSY a read finds a word or the ANY of R38, and no unwritten element is looked at. -/
theorem peek_ne_unwritten_of_busy (h : s.busy = true) (r : Region) : peek r s ≠ .unwritten := by
  cases r <;> simp [peek, unlessBusy_of_busy h]

theorem step_of_read (h : s.env = .read a :: rest) : step s = hostRead a (takeEvent rest s) := step_of_cons h

theorem hostRead_of_value {v : Word} (hp : peek (regionOf a) s = .value v) : hostRead a s = .next (returnWord v s) := by
  simp only [hostRead, hp]

theorem hostRead_of_any (hp : peek (regionOf a) s = .any) : hostRead a s = .next (returnAny s) := by
  simp only [hostRead, hp]

theorem hostRead_of_unwritten_report (hp : peek (regionOf a) s = .unwritten) (hu : s.unwritten = .report) :
    hostRead a s = .fault .unwrittenRead := by
  simp only [hostRead, hp, hu]

theorem hostRead_of_unwritten_drawAny (hp : peek (regionOf a) s = .unwritten) (hu : s.unwritten = .drawAny) :
    hostRead a s = .next (returnWord (Config.anyIdleWord s.draws a) s) := by
  simp only [hostRead, hp, hu]

theorem step_of_read_value {v : Word} (h : s.env = .read a :: rest) (hp : peek (regionOf a) s = .value v) :
    step s = .next { s with env := rest, rdata := some v } :=
  (step_of_read h).trans (hostRead_of_value (by rw [peek_takeEvent, hp]))

/-- A read of a word that reads alike in every state of the engine: CMD, STATUS, CTRL, ERRCMD and the reserved offsets. -/
theorem step_of_read_region {r : Region} {v : Word} (h : s.env = .read a :: rest) (hr : regionOf a = r)
    (hp : peek r s = .value v) : step s = .next { s with env := rest, rdata := some v } :=
  step_of_read_value h (hr ▸ hp)

theorem step_of_read_any (h : s.env = .read a :: rest) (hp : peek (regionOf a) s = .any) :
    step s = .next { s with env := rest, rdata := some (Config.anyWord s.draws), draws := s.draws + 1 } :=
  (step_of_read h).trans (hostRead_of_any (by rw [peek_takeEvent, hp]))

/-- A read while IDLE of a data word `o` returns it where it is written (R37); otherwise R129's fault or R25's ANY. -/
theorem step_of_idle_read_data {r : Region} {o : Option Word} (h : s.env = .read a :: rest) (hidle : s.engine = .idle)
    (hr : regionOf a = r) (hp : peek r s = unlessBusy s (foundWord o)) :
    (∀ v, o = some v → step s = .next { s with env := rest, rdata := some v }) ∧
      (o = none → s.unwritten = .report → step s = .fault .unwrittenRead) ∧
      (o = none → s.unwritten = .drawAny →
        step s = .next { s with env := rest, rdata := some (Config.anyIdleWord s.draws a) }) := by
  rw [unlessBusy_of_idle hidle, ← hr, ← peek_takeEvent s _ rest] at hp
  rw [step_of_read h]
  refine ⟨?_, ?_, ?_⟩
  · rintro v rfl
    exact hostRead_of_value hp
  · rintro rfl hu
    exact hostRead_of_unwritten_report hp hu
  · rintro rfl hu
    exact hostRead_of_unwritten_drawAny hp hu

/-- A read that returns changes the read data, and while BUSY the count of draws (R40). -/
theorem hostRead_next {t : State} (h : hostRead a s = .next t) :
    (∃ v, t = returnWord v s) ∨ s.busy = true ∧ t = returnAny s := by
  obtain ⟨v, -, hv⟩ | ⟨hp, hv⟩ | ⟨-, -, hv⟩ | ⟨-, -, hv⟩ := hostRead_cases a s <;> rw [hv] at h
  · exact .inl ⟨v, by simpa using h.symm⟩
  · refine .inr ⟨?_, by simpa using h.symm⟩
    by_contra hb
    exact peek_ne_any_of_idle s _ ((busy_eq_false s).1 (by simpa using hb)) hp
  · cases h
  · exact .inl ⟨_, by simpa using h.symm⟩

/-- A read while IDLE returns the same word whatever the read data and the events to come: the draws decide (R40). -/
theorem hostRead_idempotent {t : State} (hidle : s.engine = .idle) (h : hostRead a s = .next t) :
    hostRead a (takeEvent rest t) = .next { t with env := rest } := by
  obtain ⟨v, hp, hv⟩ | ⟨hp, -⟩ | ⟨-, -, hv⟩ | ⟨hp, hu, hv⟩ := hostRead_cases a s
  · obtain rfl : returnWord v s = t := by simpa [hv] using h
    exact hostRead_of_value (by simpa using hp)
  · exact absurd hp (peek_ne_any_of_idle s _ hidle)
  · rw [hv] at h
    cases h
  · obtain rfl : returnWord (Config.anyIdleWord s.draws a) s = t := by simpa [hv] using h
    exact hostRead_of_unwritten_drawAny (by simpa using hp) hu

end

/-! ### Steps that are a write -/

section
variable {s : State} {a : PortAddr} {v : Word} {rest : List PortEvent}

theorem step_of_write (h : s.env = .write a v :: rest) :
    step s = .next (hostWrite a v { s with env := rest, rdata := none, draws := s.draws + 1 }) := step_of_cons h

/-- A data word written while IDLE is stored (R39). -/
theorem step_of_idle_data_write {r : Region} (h : s.env = .write a v :: rest) (hidle : s.engine = .idle)
    (hr : regionOf a = r) (hd : r.isData = true) :
    step s = .next (storeData r v { s with env := rest, rdata := none, draws := s.draws + 1 }) := by
  subst hr
  rw [step_of_write h, hostWrite_data _ _ _ hd, writeData, if_neg]
  simp [State.busy, hidle]

/-- A data word written while BUSY is dropped, with BUSY_WRITE (R39). -/
theorem step_of_busy_data_write (h : s.env = .write a v :: rest) (hbusy : s.busy = true)
    (hd : (regionOf a).isData = true) :
    step s = .next (raiseError .busyWrite (BitVec.ofNat 32 (byteOffset a))
      { s with env := rest, rdata := none, draws := s.draws + 1 }) := by
  rw [step_of_write h, hostWrite_data _ _ _ hd, writeData, if_pos]
  exact hbusy

/-- Writes of ERRCMD, GFRES and the reserved offsets are ignored (R39). -/
theorem step_of_ignored_write (h : s.env = .write a v :: rest)
    (hr : regionOf a = .errcmd ∨ regionOf a = .gfres ∨ regionOf a = .reserved) :
    step s = .next { s with env := rest, rdata := none, draws := s.draws + 1 } := by
  rw [step_of_write h, hostWrite]
  obtain hr | hr | hr := hr <;> rw [hr]

/-- A byte lane as a digit of the word in base 256 (R34). -/
theorem byteLane_eq_ofNat (m : Nat) (v : Word) : byteLane m v = BitVec.ofNat 8 (v.toNat / 2 ^ (8 * m)) := by
  rw [byteLane, BitVec.extractLsb', Nat.shiftRight_eq_div_pow]

/-! ### Reading back -/

theorem packedAt_putPacked_same {n : Nat} (arr : Vector (Option Byte) n) (j : Nat) (v : Word) (h : 4 * j + 3 < n) :
    packedAt (putPacked arr j v) j h = some v := by
  have hdiv : 4 * j / 4 = j ∧ (4 * j + 1) / 4 = j ∧ (4 * j + 2) / 4 = j ∧ (4 * j + 3) / 4 = j := by omega
  simp [packedAt, hdiv, packWritten, packWord_byteLane]

theorem packedAt_putPacked_of_ne {n : Nat} (arr : Vector (Option Byte) n) {j k : Nat} (v : Word) (h : 4 * k + 3 < n)
    (hk : k ≠ j) : packedAt (putPacked arr j v) k h = packedAt arr k h := by
  have hdiv : 4 * k / 4 = k ∧ (4 * k + 1) / 4 = k ∧ (4 * k + 2) / 4 = k ∧ (4 * k + 3) / 4 = k := by omega
  simp [packedAt, hdiv, hk]

theorem peek_storeData_same {r : Region} (hidle : s.engine = .idle) (hd : r.isData = true) (v : Word) :
    peek r (storeData r v s) = .value v := by
  have hi (t : State) (ht : t.engine = s.engine) (x : ReadResult) : unlessBusy t x = x :=
    unlessBusy_of_idle (ht.trans hidle) x
  cases r with
  | key j | st j | mblk j => simp [peek, storeData, hi, packedAt_putPacked_same, foundWord]
  | h j | w j => simp [peek, storeData, hi, foundWord]
  | cmd | status | ctrl | errcmd | gfres | reserved => cases hd

/-- A stored data word changes its own word of the window alone (R34, R35, R39). -/
theorem peek_storeData_of_ne {r q : Region} (hne : q ≠ r) (v : Word) (s : State) :
    peek q (storeData r v s) = peek q s := by
  have hfound {o o' : Option Word} (h : o = o') : unlessBusy s (foundWord o) = unlessBusy s (foundWord o') :=
    congrArg _ (congrArg _ h)
  cases r with
  | cmd | status | ctrl | errcmd | gfres | reserved => rfl
  | key j =>
    cases q with
    | key k => exact hfound (packedAt_putPacked_of_ne s.key v _ fun h => hne (congrArg _ (Fin.ext h)))
    | _ => rfl
  | st j =>
    cases q with
    | st k => exact hfound (packedAt_putPacked_of_ne s.st v _ fun h => hne (congrArg _ (Fin.ext h)))
    | _ => rfl
  | mblk j =>
    cases q with
    | mblk k => exact hfound (packedAt_putPacked_of_ne s.mblk v _ fun h => hne (congrArg _ (Fin.ext h)))
    | _ => rfl
  | h j =>
    cases q with
    | h k => exact hfound ((getElem_putWord ..).trans (if_neg fun h => hne (congrArg _ (Fin.ext h))))
    | _ => rfl
  | w j =>
    cases q with
    | w k => exact hfound ((getElem_putWord ..).trans (if_neg fun h => hne (congrArg _ (Fin.ext h))))
    | _ => rfl

end

/-! ### While a command is pending (R42, R44) -/

/-- `t` has the pending command, LASTCMD, GFRES and the arrays of `s`, and the model's `env` and `unwritten`. -/
structure KeepsPending (s t : State) : Prop where
  engine : t.engine = s.engine
  lastcmd : t.lastcmd = s.lastcmd
  gfres : t.gfres = s.gfres
  key : t.key = s.key
  st : t.st = s.st
  mblk : t.mblk = s.mblk
  h : t.h = s.h
  w : t.w = s.w
  env : t.env = s.env
  unwritten : t.unwritten = s.unwritten

theorem KeepsPending.trans {s t u : State} (hst : KeepsPending s t) (htu : KeepsPending t u) : KeepsPending s u where
  engine := htu.engine.trans hst.engine
  lastcmd := htu.lastcmd.trans hst.lastcmd
  gfres := htu.gfres.trans hst.gfres
  key := htu.key.trans hst.key
  st := htu.st.trans hst.st
  mblk := htu.mblk.trans hst.mblk
  h := htu.h.trans hst.h
  w := htu.w.trans hst.w
  env := htu.env.trans hst.env
  unwritten := htu.unwritten.trans hst.unwritten

theorem KeepsPending.with_env {s t : State} (h : KeepsPending s t) (env : List PortEvent) :
    KeepsPending { s with env := env } { t with env := env } :=
  { h with env := rfl }

/-- What KeepsPending does not name may be anything. -/
theorem keepsPending_update (s : State) (done : Bool) (code : ErrCode) (ie : Bool) (info : Word) (rdata : Option Word)
    (draws : Nat) :
    KeepsPending s
      { s with done := done, errcode := code, ie := ie, errcmd := info, rdata := rdata, draws := draws } :=
  ⟨rfl, rfl, rfl, rfl, rfl, rfl, rfl, rfl, rfl, rfl⟩

theorem KeepsPending.refl (s : State) : KeepsPending s s := keepsPending_update ..

section
variable {s : State}

theorem keepsPending_raiseError (code : ErrCode) (info : Word) (s : State) : KeepsPending s (raiseError code info s) := by
  rw [raiseError_frame]
  exact keepsPending_update ..

/-- While BUSY a command word is not accepted (R121): the state stays, or BUSY_CMD is recorded. -/
theorem keepsPending_issue (hbusy : s.busy = true) (word : Word) : KeepsPending s (issue word s) := by
  obtain ⟨-, h⟩ | ⟨-, -, h⟩ | ⟨-, hidle, -⟩ := issue_cases word s
  · rw [h]
    exact .refl s
  · rw [h]
    exact keepsPending_update ..
  · simp [hbusy] at hidle

theorem keepsPending_writeStatus (v : Word) (s : State) : KeepsPending s (writeStatus v s) := by
  unfold writeStatus
  split
  · exact keepsPending_update ..
  · exact .refl s

/-- A write of CTRL without SRST writes IE and may clear the error (R105, R106). -/
theorem keepsPending_writeCtrl {v : Word} (hv : v.getLsbD 2 = false) (s : State) : KeepsPending s (writeCtrl v s) := by
  rw [writeCtrl, hv, if_neg Bool.false_ne_true]
  split <;> exact keepsPending_update ..

theorem keepsPending_writeData (hbusy : s.busy = true) (a : PortAddr) (v : Word) : KeepsPending s (writeData a v s) := by
  rw [writeData, if_pos hbusy]
  exact keepsPending_raiseError _ _ s

/-- While BUSY a write that is no reset keeps the pending command and its operands (R39, R44). -/
theorem keepsPending_hostWrite {a : PortAddr} {v : Word} (hbusy : s.busy = true)
    (hreset : regionOf a = .ctrl → v.getLsbD 2 = false) : KeepsPending s (hostWrite a v s) := by
  obtain ⟨-, h⟩ | ⟨-, h⟩ | ⟨hr, h⟩ | ⟨-, h⟩ | ⟨-, h⟩ := hostWrite_cases a v s <;> rw [h]
  · exact keepsPending_issue hbusy v
  · exact keepsPending_writeStatus v s
  · exact keepsPending_writeCtrl (hreset hr) s
  · exact .refl s
  · exact keepsPending_writeData hbusy a v

/-- While BUSY a read returns and keeps the pending command and its operands (R38, R40). -/
theorem keepsPending_hostRead (hbusy : s.busy = true) (a : PortAddr) :
    ∃ t, hostRead a s = .next t ∧ KeepsPending s t := by
  obtain ⟨v, -, h⟩ | ⟨-, h⟩ | ⟨hp, -⟩ | ⟨hp, -⟩ := hostRead_cases a s
  · exact ⟨_, h, keepsPending_update ..⟩
  · exact ⟨_, h, keepsPending_update ..⟩
  · exact absurd hp (peek_ne_unwritten_of_busy hbusy _)
  · exact absurd hp (peek_ne_unwritten_of_busy hbusy _)

/-- CTRL is at one word address. -/
theorem eq_two_of_regionOf_ctrl {a : PortAddr} (h : regionOf a = .ctrl) : a = 2 := by
  have hoff : 4 * a.toNat = 0x008 := (regionOf_ctrl a).1 h
  exact BitVec.eq_of_toNat_eq (by simpa using (by omega : a.toNat = 2))

/-- A host transaction while BUSY, other than a reset, keeps the pending command and its operands (R44). -/
theorem step_keepsPending {e : PortEvent} {rest : List PortEvent} (henv : s.env = e :: rest) (hbusy : s.busy = true)
    (hengine : e ≠ .engine) (hrst : e ≠ .rst) (hsrst : ∀ v : Word, v.getLsbD 2 = true → e ≠ .write 2 v) :
    ∃ t, step s = .next t ∧ KeepsPending { s with env := rest } t := by
  cases e with
  | engine => exact absurd rfl hengine
  | rst => exact absurd rfl hrst
  | read a =>
    obtain ⟨t, ht, hkeep⟩ := keepsPending_hostRead (s := takeEvent rest s) hbusy a
    exact ⟨t, (step_of_read henv).trans ht, .trans (keepsPending_update { s with env := rest } ..) hkeep⟩
  | write a v =>
    have hreset : regionOf a = .ctrl → v.getLsbD 2 = false := by
      intro hr
      rw [← Bool.not_eq_true]
      intro hv
      exact hsrst v hv (by rw [eq_two_of_regionOf_ctrl hr])
    exact ⟨_, step_of_write henv,
      .trans (keepsPending_update { s with env := rest } ..) (keepsPending_hostWrite hbusy hreset)⟩

theorem run_succ {t : State} (k : Nat) (h : step s = .next t) :
    Host.Core.run core (k + 1) s = Host.Core.run core k t := by
  simp [Host.Core.run, core, h]

/-- With no reset among the events, a pending command stays pending, with its operands as they were, up to the first engine's
turn, which comes at the latest after the last event (R42). -/
theorem run_keepsPending_until_engine (hbusy : s.busy = true)
    (hreset : ∀ e ∈ s.env, e ≠ .rst ∧ ∀ v : Word, v.getLsbD 2 = true → e ≠ .write 2 v) :
    ∃ (k : Nat) (t : State) (rest : List PortEvent), k ≤ s.env.length ∧ Host.Core.run core k s = .next t ∧
      KeepsPending { s with env := t.env } t ∧ step t = engineTurn (takeEvent rest t) := by
  induction henv : s.env generalizing s with
  | nil => exact ⟨0, s, [], le_rfl, rfl, .refl s, step_of_nil henv⟩
  | cons e rest ih =>
    by_cases hengine : e = .engine
    · subst hengine
      exact ⟨0, s, rest, by simp, rfl, .refl s, step_of_cons henv⟩
    · rw [henv] at hreset
      obtain ⟨hrst, hsrst⟩ := hreset e (by simp)
      obtain ⟨s', hstep, hkeep⟩ := step_keepsPending henv hbusy hengine hrst hsrst
      have hbusy' : s'.busy = true := by
        rw [State.busy, hkeep.engine]
        exact hbusy
      have henv' : s'.env = rest := hkeep.env
      obtain ⟨k, t, r, hk, hrun, hkeep', hturn⟩ :=
        ih hbusy' (by rw [henv']; exact fun x hx => hreset x (List.mem_cons_of_mem _ hx)) henv'
      refine ⟨k + 1, t, r, by simpa using hk, (run_succ k hstep).trans hrun, ?_, hturn⟩
      exact (hkeep.with_env t.env).trans hkeep'

end

/-! ### The completion of the pending command (R123) -/

/-- A command is well formed where the index of a round command is one (R49). -/
theorem wellFormed_iff (i : Instr) :
    i.wellFormed = true ↔ (takesRoundIndex i.opcode = true → i.fieldA.toNat ≤ 14) := by
  cases i <;> simp [Instr.wellFormed, takesRoundIndex, Instr.opcode, Instr.fieldA]

/-- The command of an operation code has that code, and field A as its round index (R48). -/
theorem command_fields {opc a b : Byte} {i : Instr} (h : command opc a b = some i) :
    i.opcode = opc ∧ (takesRoundIndex opc = true → i.fieldA = a) := by
  unfold command at h
  split at h <;> cases h
  all_goals
    rename_i hopc
    simp [BitVec.toNat_eq, hopc, Instr.opcode, Instr.fieldA, takesRoundIndex]

/-- Decode accepts well-formed commands alone (R49, R51). -/
theorem decode_wellFormed {w : Word} {i : Instr} (h : decode w = .ok i) : i.wellFormed = true := by
  rw [wellFormed_iff]
  unfold decode at h
  cases hc : command (opcField w) (aField w) (bField w) with
  | none => simp [hc] at h
  | some j =>
    obtain ⟨hopc, ha⟩ := command_fields hc
    simp only [hc] at h
    split_ifs at h with h1 h2 h3
    obtain rfl : j = i := by simpa using h
    rw [hopc]
    intro hr
    rw [ha hr]
    exact Nat.not_lt.1 fun hlt => h3 ⟨hr, hlt⟩

/-- The pending command of a consistent state is one that Issue accepts (R121, R122). -/
theorem State.Consistent.pending_accepted {s : State} {i : Instr} (hs : s.Consistent) (hi : s.engine = .busy i) :
    i.wellFormed = true ∧ i ≠ .gfInv 0 := by
  obtain ⟨hdecode, -⟩ := hs.pending_is_lastcmd i hi
  obtain ⟨j, hj, hne⟩ := hs.lastcmd_accepted
  obtain rfl : i = j := by simpa [hdecode] using hj
  exact ⟨decode_wellFormed hdecode, hne⟩

theorem engineTurn_of_busy {s : State} {i : Instr} (h : s.engine = .busy i) : engineTurn s = exec i (newChoice s) := by
  simp only [engineTurn, h]

theorem operandsWritten_congr {s t : State} {env : List PortEvent} (i : Instr) (h : KeepsPending { s with env := env } t) :
    operandsWritten i t ↔ operandsWritten i s := by
  cases i <;> simp only [operandsWritten, operandsWritten.roundKeyWritten, h.key, h.st, h.mblk, h.h, h.w]

/-- An accepted command completes where its operands are written or unwritten elements are as in the hardware. -/
theorem exec_completes {i : Instr} {s : State} (hwf : i.wellFormed = true) (hi : i ≠ .gfInv 0)
    (h : operandsWritten i s ∨ s.unwritten = .drawAny) :
    ∃ u, exec i s = .next u ∧ u.engine = .idle ∧ u.done = true := by
  obtain ⟨α, operands, effect, hexec, hop, -⟩ := exec_isCompletion s hwf hi
  rw [hexec]
  cases operands with
  | some x => exact ⟨_, rfl, rfl, rfl⟩
  | none =>
    have hu : s.unwritten = .drawAny := h.resolve_left (by simp [← hop])
    exact ⟨_, completeWith_none_drawAny _ _ _ hu, rfl, rfl⟩

end Sys2Proof.Machine

open Sys2Proof Sys2Proof.Machine

/-- Settles O39: the write raises BUSY_WRITE with its offset, which is recorded where no error is (R124). -/
theorem dataWriteWhileBusyIsDropped : Obligations.DataWriteWhileBusyIsDropped := by
  unfold Obligations.DataWriteWhileBusyIsDropped
  intro s a v rest henv hbusy hoff
  rw [step_of_busy_data_write henv (busy_of_ne_idle hbusy) (isData_of_isDataOffset hoff)]
  exact ⟨fun herr => congrArg _ (raiseError_of_noError _ _ _ herr),
    fun herr => congrArg _ (raiseError_of_error _ _ _ herr)⟩

/-- Settles O45: each offset's region and what a read of it finds while IDLE. -/
theorem idleReadReturns : Obligations.IdleReadReturns := by
  unfold Obligations.IdleReadReturns
  intro s a rest henv hidle
  refine ⟨?cmd, ?status, ?ctrl, ?errcmd, ?gfres, ?key, ?st, ?mblk, ?h, ?w, ?reserved⟩
  case cmd => exact fun ho => step_of_read_region henv ((regionOf_cmd a).2 ho) rfl
  case status => exact fun ho => step_of_read_region henv ((regionOf_status a).2 ho) rfl
  case ctrl => exact fun ho => step_of_read_region henv ((regionOf_ctrl a).2 ho) (congrArg _ (ctrlWord_eq s))
  case errcmd => exact fun ho => step_of_read_region henv ((regionOf_errcmd a).2 ho) rfl
  case gfres => exact fun ho => step_of_read_region henv ((regionOf_gfres a).2 ho) (unlessBusy_of_idle hidle _)
  case key => exact fun j ho => step_of_idle_read_data henv hidle ((regionOf_key a j).2 ho) rfl
  case st => exact fun j ho => step_of_idle_read_data henv hidle ((regionOf_st a j).2 ho) rfl
  case mblk => exact fun j ho => step_of_idle_read_data henv hidle ((regionOf_mblk a j).2 ho) rfl
  case h => exact fun j ho => step_of_idle_read_data henv hidle ((regionOf_h a j).2 ho) rfl
  case w => exact fun t ho => step_of_idle_read_data henv hidle ((regionOf_w a t).2 ho) rfl
  case reserved => exact fun ho => step_of_read_region henv (regionOf_of_isReservedOffset ho) rfl

/-- Settles O46: while BUSY only GFRES and the data words read as ANY. -/
theorem busyReadReturns : Obligations.BusyReadReturns := by
  unfold Obligations.BusyReadReturns
  intro s a rest henv hengine
  have hbusy := busy_of_ne_idle hengine
  refine ⟨?cmd, ?status, ?ctrl, ?errcmd, ?reserved, ?any⟩
  case cmd => exact fun ho => step_of_read_region henv ((regionOf_cmd a).2 ho) rfl
  case status => exact fun ho => step_of_read_region henv ((regionOf_status a).2 ho) rfl
  case ctrl => exact fun ho => step_of_read_region henv ((regionOf_ctrl a).2 ho) (congrArg _ (ctrlWord_eq s))
  case errcmd => exact fun ho => step_of_read_region henv ((regionOf_errcmd a).2 ho) rfl
  case reserved => exact fun ho => step_of_read_region henv (regionOf_of_isReservedOffset ho) rfl
  case any =>
    rintro (ho | ho)
    · exact step_of_read_any henv (by rw [(regionOf_gfres a).2 ho]; exact unlessBusy_of_busy hbusy _)
    · exact step_of_read_any henv (peek_of_busy hbusy (isData_of_isDataOffset ho))

/-- Settles O47: the region's array is the one stored into, and its elements are those of the packing (R34, R35). -/
theorem dataWriteStoresTheLanes : Obligations.DataWriteStoresTheLanes := by
  unfold Obligations.DataWriteStoresTheLanes
  intro s a v rest henv hidle
  refine ⟨?key, ?st, ?mblk, ?h, ?w⟩
  case key =>
    exact fun j ho => ⟨_, step_of_idle_data_write henv hidle ((regionOf_key a j).2 ho) rfl,
      fun n => by simp [byteLane_eq_ofNat]⟩
  case st =>
    exact fun j ho => ⟨_, step_of_idle_data_write henv hidle ((regionOf_st a j).2 ho) rfl,
      fun n => by simp [byteLane_eq_ofNat]⟩
  case mblk =>
    exact fun j ho => ⟨_, step_of_idle_data_write henv hidle ((regionOf_mblk a j).2 ho) rfl,
      fun n => by simp [byteLane_eq_ofNat]⟩
  case h =>
    exact fun j ho => ⟨_, step_of_idle_data_write henv hidle ((regionOf_h a j).2 ho) rfl,
      fun n => by simp [Fin.ext_iff]⟩
  case w =>
    exact fun j ho => ⟨_, step_of_idle_data_write henv hidle ((regionOf_w a j).2 ho) rfl,
      fun n => by simp [Fin.ext_iff]⟩

/-- Settles O48: the stored word is found at its own region, and another address is another region or the reserved one. -/
theorem dataWriteReadsBack : Obligations.DataWriteReadsBack := by
  unfold Obligations.DataWriteReadsBack
  intro s a v rest henv hidle hd
  refine ⟨_, step_of_idle_data_write henv hidle rfl hd, peek_storeData_same ?_ hd v, fun b hb => ?_⟩
  · exact hidle
  · have hne : regionOf b ≠ regionOf a := fun h => hb (regionOf_injective h fun hr => by simp [hr, Region.isData] at hd)
    rw [peek_storeData_of_ne hne, peek_frame]

/-- Settles O49: none of these regions is written (R39). -/
theorem otherWritesAreIgnored : Obligations.OtherWritesAreIgnored := by
  unfold Obligations.OtherWritesAreIgnored
  intro s a v rest henv hoff
  apply step_of_ignored_write henv
  obtain ho | ho | ho := hoff
  · exact .inl ((regionOf_errcmd a).2 ho)
  · exact .inr (.inl ((regionOf_gfres a).2 ho))
  · exact .inr (.inr (regionOf_of_isReservedOffset ho))

/-- Settles O50: a read returns a word or, while BUSY, draws one; while IDLE what it finds does not depend on what it
changed. -/
theorem readsHaveNoSideEffects : Obligations.ReadsHaveNoSideEffects := by
  unfold Obligations.ReadsHaveNoSideEffects
  constructor
  · intro s t a rest henv ht
    rw [step_of_read henv] at ht
    obtain ⟨v, rfl⟩ | ⟨hbusy, rfl⟩ := hostRead_next ht
    · exact ⟨rfl, rfl, fun _ => rfl⟩
    · refine ⟨rfl, rfl, fun hidle => ?_⟩
      rw [busy_takeEvent, (busy_eq_false s).2 hidle] at hbusy
      cases hbusy
  · intro s t a rest henv hidle ht
    rw [step_of_read henv] at ht
    have henv' : t.env = .read a :: rest := by
      obtain ⟨v, rfl⟩ | ⟨-, rfl⟩ := hostRead_next ht <;> rfl
    rw [step_of_read henv']
    exact hostRead_idempotent (s := takeEvent _ s) hidle ht

/-- Settles O51: a host transaction other than a reset keeps what is pending (R44). -/
theorem operandsStayWhileBusy : Obligations.OperandsStayWhileBusy := by
  unfold Obligations.OperandsStayWhileBusy
  intro s e i rest henv hi hengine hrst hsrst
  obtain ⟨t, ht, hkeep⟩ := step_keepsPending henv ((busy_eq_true s).2 ⟨i, hi⟩) hengine hrst hsrst
  exact ⟨t, ht, hkeep.engine.trans hi, hkeep.key, hkeep.st, hkeep.mblk, hkeep.h, hkeep.w, hkeep.gfres, hkeep.lastcmd,
    hkeep.env, hkeep.unwritten⟩

/-- Settles O57: by induction on the events, the engine's turn comes with the command and its operands as they were, and an
accepted command then completes. -/
theorem pendingCommandCompletes : Obligations.PendingCommandCompletes := by
  unfold Obligations.PendingCommandCompletes
  intro s i hs hi hop hreset
  obtain ⟨hwf, hne⟩ := hs.pending_accepted hi
  obtain ⟨k, t, rest, hk, hrun, hkeep, hturn⟩ := run_keepsPending_until_engine ((busy_eq_true s).2 ⟨i, hi⟩) hreset
  have hti : t.engine = .busy i := hkeep.engine.trans hi
  have hkeep' : KeepsPending { s with env := rest } (newChoice (takeEvent rest t)) :=
    (hkeep.with_env rest).trans (keepsPending_update ..)
  have hop' : operandsWritten i (newChoice (takeEvent rest t)) ∨ (newChoice (takeEvent rest t)).unwritten = .drawAny := by
    rwa [operandsWritten_congr i hkeep', hkeep'.unwritten]
  obtain ⟨u, hu, huidle, hudone⟩ := exec_completes hwf hne hop'
  exact ⟨k, t, u, hk, hrun, hti, hkeep.key, hkeep.st, hkeep.mblk, hkeep.h, hkeep.w,
    (hturn.trans (engineTurn_of_busy hti)).trans hu, huidle, hudone⟩
end

section
/-! The encoding's statements (30_encoding.md): Decode's verdict by the fields of the word (R51), and Encode as its inverse
on the words it accepts (R53). -/

namespace Sys2Proof

/-! ### The opcode map (R48) -/

/-- The numbers that are operation codes of R48; every other one is reserved (R50). -/
def IsKnownOpcode (opc : Nat) : Prop :=
  opc ∈ [0x00, 0x01, 0x02, 0x03] ∨ (0x10 ≤ opc ∧ opc ≤ 0x17) ∨ (0x20 ≤ opc ∧ opc ≤ 0x23)

theorem command_eq_none_iff (opc a b : Byte) : command opc a b = none ↔ ¬IsKnownOpcode opc.toNat := by
  simp only [IsKnownOpcode, List.mem_cons, List.not_mem_nil, or_false]
  unfold command
  split
  case h_17 =>
    refine iff_of_true rfl ?_
    simp only [imp_false] at *
    omega
  all_goals
    rename_i hopc
    simp [hopc]

/-- The command of an operation code has the fields that code uses as its operands. -/
theorem command_operands {opc a b : Byte} {i : Instr} (h : command opc a b = some i) :
    (usesA opc = true → i.fieldA = a) ∧ (usesB opc = true → i.fieldB = b) := by
  unfold command at h
  split at h <;> cases h
  all_goals
    rename_i hopc
    simp [BitVec.toNat_eq, hopc, Instr.fieldA, Instr.fieldB, usesA, usesB]

theorem fieldA_eq_zero_of_unused {i : Instr} (h : usesA i.opcode = false) : i.fieldA = 0 := by
  cases i with
  | gfMul | gfInv | gfSbox | aesArk | aesRnd | aesLast => cases h
  | _ => rfl

theorem fieldB_eq_zero_of_unused {i : Instr} (h : usesB i.opcode = false) : i.fieldB = 0 := by
  cases i with
  | gfMul => cases h
  | _ => rfl

theorem encodedFields (i : Instr) : Laws.EncodedFields.Statement i :=
  Laws.EncodedFields.of_command (by cases i <;> rfl)

/-! ### Decode (R51) -/

/-- The word meets every constraint of R49 for its operation code: RSV and the unused fields are 0, and a round index is at
most 14. -/
structure MeetsConstraints (w : Word) : Prop where
  rsv : rsvField w = 0
  a : usesA (opcField w) = false → aField w = 0
  b : usesB (opcField w) = false → bField w = 0
  roundIndex : takesRoundIndex (opcField w) = true → (aField w).toNat ≤ 14

theorem decode_of_reserved {w : Word} (h : command (opcField w) (aField w) (bField w) = none) :
    decode w = .badOpcode := by
  simp only [decode, h]

theorem decode_of_meetsConstraints {w : Word} {i : Instr} (h : command (opcField w) (aField w) (bField w) = some i)
    (hw : MeetsConstraints w) : decode w = .ok i := by
  obtain ⟨hrsv, ha, hb, hn⟩ := hw
  simp only [decode, h]
  rw [if_neg (not_not.2 hrsv), if_neg, if_neg]
  · exact fun hlt => absurd (hn hlt.1) (Nat.not_le.2 hlt.2)
  · rintro (hne | hne)
    · exact hne.2 (ha hne.1)
    · exact hne.2 (hb hne.1)

theorem decode_of_not_meetsConstraints {w : Word} {i : Instr}
    (h : command (opcField w) (aField w) (bField w) = some i) (hw : ¬MeetsConstraints w) : decode w = .badOperand := by
  simp only [decode, h]
  split_ifs with hrsv hunused hindex
  case neg =>
    refine absurd ⟨not_not.1 hrsv, fun hu => ?_, fun hu => ?_, fun hr => ?_⟩ hw
    · exact by_contra fun hne => hunused (.inl ⟨hu, hne⟩)
    · exact by_contra fun hne => hunused (.inr ⟨hu, hne⟩)
    · exact Nat.not_lt.1 fun hlt => hindex ⟨hr, hlt⟩
  all_goals rfl

theorem decode_eq_ok_iff {w : Word} {i : Instr} :
    decode w = .ok i ↔ command (opcField w) (aField w) (bField w) = some i ∧ MeetsConstraints w := by
  refine ⟨fun h => ?_, fun h => decode_of_meetsConstraints h.1 h.2⟩
  cases hc : command (opcField w) (aField w) (bField w) with
  | none => cases (decode_of_reserved hc).symm.trans h
  | some j =>
    by_cases hw : MeetsConstraints w
    · cases (decode_of_meetsConstraints hc hw).symm.trans h
      exact ⟨rfl, hw⟩
    · cases (decode_of_not_meetsConstraints hc hw).symm.trans h

/-- An accepted word has the fields of its command, 0 where the command uses none (R49). -/
theorem fields_of_decode {w : Word} {i : Instr} (h : decode w = .ok i) :
    i.opcode = opcField w ∧ i.fieldA = aField w ∧ i.fieldB = bField w ∧ rsvField w = 0 := by
  obtain ⟨hc, hrsv, ha, hb, -⟩ := decode_eq_ok_iff.1 h
  have hopc := (Machine.command_fields hc).1
  obtain ⟨hused, hused'⟩ := command_operands hc
  refine ⟨hopc, ?_, ?_, hrsv⟩
  · cases hu : usesA (opcField w) with
    | true => exact hused hu
    | false => rw [ha hu, fieldA_eq_zero_of_unused (hopc ▸ hu)]
  · cases hu : usesB (opcField w) with
    | true => exact hused' hu
    | false => rw [hb hu, fieldB_eq_zero_of_unused (hopc ▸ hu)]

/-! ### Encode (R53) -/

/-- An encoding has its command's fields, and these meet the constraints where the command is well formed. -/
theorem decode_encode {i : Instr} (h : i.wellFormed = true) : decode (encode i) = .ok i := by
  obtain ⟨hopc, ha, hb, hrsv, hc⟩ := encodedFields i
  rw [decode_eq_ok_iff, hopc, ha, hb]
  refine ⟨hc, hrsv, ?_, ?_, ?_⟩ <;> rw [hopc]
  · exact fun hu => ha.trans (fieldA_eq_zero_of_unused hu)
  · exact fun hu => hb.trans (fieldB_eq_zero_of_unused hu)
  · rw [ha]
    exact (Machine.wellFormed_iff i).1 h

theorem encode_of_decode {w : Word} {i : Instr} (h : decode w = .ok i) : encode i = w := by
  obtain ⟨hopc, ha, hb, hrsv⟩ := fields_of_decode h
  rw [encode, hopc, ha, hb, ← hrsv, commandWord_fields]

/-! ### Match and mask (R49) -/

theorem commandWord_inj {r b a o r' b' a' o' : Byte} :
    commandWord r b a o = commandWord r' b' a' o' ↔ r = r' ∧ b = b' ∧ a = a' ∧ o = o' := by
  constructor
  · intro h
    refine ⟨?_, ?_, ?_, ?_⟩
    · simpa using congrArg rsvField h
    · simpa using congrArg bField h
    · simpa using congrArg aField h
    · simpa using congrArg opcField h
  · rintro ⟨rfl, rfl, rfl, rfl⟩
    rfl

theorem commandWord_and (r b a o r' b' a' o' : Byte) :
    commandWord r b a o &&& commandWord r' b' a' o' = commandWord (r &&& r') (b &&& b') (a &&& a') (o &&& o') := by
  apply BitVec.eq_of_getLsbD_eq
  intro k hk
  simp only [BitVec.getLsbD_and, getLsbD_commandWord]
  split_ifs <;> rfl

/-- The mask of an operation code's row: all ones in OPC, RSV and the unused fields. -/
def maskOf (opc : Byte) : Word :=
  commandWord 0xFF (if usesB opc then 0 else 0xFF) (if usesA opc then 0 else 0xFF) 0xFF

theorem byte_and_ones (x : Byte) : x &&& 0xFF = x := BitVec.and_allOnes

theorem byte_and_unless_eq_zero_iff (x : Byte) (used : Bool) :
    x &&& (if used then 0 else 0xFF) = 0 ↔ (used = false → x = 0) := by
  cases used with
  | true => simp
  | false => simp only [Bool.false_eq_true, if_false, byte_and_ones, forall_const]

theorem and_maskOf_eq_iff (w : Word) (opc : Byte) :
    w &&& maskOf opc = commandWord 0 0 0 opc ↔
      rsvField w = 0 ∧ (usesB opc = false → bField w = 0) ∧ (usesA opc = false → aField w = 0) ∧ opcField w = opc := by
  conv_lhs => rw [← commandWord_fields w, maskOf, commandWord_and, commandWord_inj]
  rw [byte_and_ones, byte_and_ones, byte_and_unless_eq_zero_iff, byte_and_unless_eq_zero_iff]

/-- A row of the opcode map: a word decodes to the row's command exactly where it matches under the row's mask and its A is no
round index above 14. -/
theorem decode_eq_row_iff {opc : Byte} {cmd : Byte → Byte → Instr} (hrow : ∀ a b, command opc a b = some (cmd a b))
    (w : Word) :
    decode w = .ok (cmd (aField w) (bField w)) ↔
      w &&& maskOf opc = commandWord 0 0 0 opc ∧ (takesRoundIndex opc = true → (aField w).toNat ≤ 14) := by
  rw [decode_eq_ok_iff, and_maskOf_eq_iff]
  constructor
  · rintro ⟨hc, hrsv, ha, hb, hn⟩
    have hopc : opcField w = opc :=
      (Machine.command_fields hc).1.symm.trans (Machine.command_fields (hrow _ _)).1
    rw [hopc] at ha hb hn
    exact ⟨⟨hrsv, hb, ha, hopc⟩, hn⟩
  · rintro ⟨⟨hrsv, hb, ha, rfl⟩, hn⟩
    exact ⟨hrow _ _, hrsv, ha, hb, hn⟩

/-- A row of the table of R49 is that of an operation code: its match, its mask, whether its A is a round index, and its
command. -/
structure IsRowOf (opc : Byte) (row : Word × Word × Bool × (Byte → Byte → Instr)) : Prop where
  word : row.1 = commandWord 0 0 0 opc
  mask : row.2.1 = maskOf opc
  roundIndex : row.2.2.1 = takesRoundIndex opc
  cmd : ∀ a b, command opc a b = some (row.2.2.2 a b)

theorem IsRowOf.decode_iff {opc : Byte} {row : Word × Word × Bool × (Byte → Byte → Instr)} (h : IsRowOf opc row)
    (w : Word) :
    (∃ i, decode w = .ok i ∧ i = row.2.2.2 (aField w) (bField w)) ↔
      w &&& row.2.1 = row.1 ∧ (row.2.2.1 = true → (aField w).toNat ≤ 14) := by
  rw [exists_eq_right, h.word, h.mask, h.roundIndex]
  exact decode_eq_row_iff h.cmd w

/-! ### The fields of a word as numbers (R46) -/

theorem toNat_opcField (w : Word) : (opcField w).toNat = w.toNat % 256 := by
  simp [opcField, BitVec.extractLsb'_toNat]

theorem toNat_aField (w : Word) : (aField w).toNat = w.toNat / 256 % 256 := by
  simp [aField, BitVec.extractLsb'_toNat, Nat.shiftRight_eq_div_pow]

theorem toNat_bField (w : Word) : (bField w).toNat = w.toNat / 65536 % 256 := by
  simp [bField, BitVec.extractLsb'_toNat, Nat.shiftRight_eq_div_pow]

theorem toNat_rsvField (w : Word) : (rsvField w).toNat = w.toNat / 16777216 := by
  have hw := w.isLt
  rw [rsvField, BitVec.extractLsb'_toNat, Nat.shiftRight_eq_div_pow]
  omega

theorem usesA_eq_false_iff (opc : Byte) :
    usesA opc = false ↔ opc.toNat ∉ [0x01, 0x02, 0x03, 0x12, 0x16, 0x17] := by
  simp [usesA, BitVec.toNat_eq]

theorem usesB_eq_false_iff (opc : Byte) : usesB opc = false ↔ opc.toNat ≠ 0x01 := by
  simp [usesB, BitVec.toNat_eq]

theorem takesRoundIndex_iff (opc : Byte) : takesRoundIndex opc = true ↔ opc.toNat ∈ [0x12, 0x16, 0x17] := by
  simp [takesRoundIndex, BitVec.toNat_eq]

/-- The constraints of R49, broken: by the numbers of the fields. -/
def BreaksConstraints (opc a b rsv : Nat) : Prop :=
  rsv ≠ 0 ∨ (opc ∉ [0x01, 0x02, 0x03, 0x12, 0x16, 0x17] ∧ a ≠ 0) ∨ (opc ≠ 0x01 ∧ b ≠ 0) ∨
    (opc ∈ [0x12, 0x16, 0x17] ∧ 14 < a)

theorem not_meetsConstraints_iff (w : Word) :
    ¬MeetsConstraints w ↔
      BreaksConstraints (opcField w).toNat (aField w).toNat (bField w).toNat (rsvField w).toNat := by
  have hzero (x : Byte) : x = 0 ↔ x.toNat = 0 := BitVec.toNat_eq
  rw [BreaksConstraints, ← usesA_eq_false_iff, ← usesB_eq_false_iff, ← takesRoundIndex_iff]
  constructor
  · intro h
    by_contra hb
    push Not at hb
    obtain ⟨hrsv, ha, hb, hn⟩ := hb
    exact h ⟨(hzero _).2 hrsv, fun hu => (hzero _).2 (ha hu), fun hu => (hzero _).2 (hb hu), hn⟩
  · rintro (h | ⟨hu, h⟩ | ⟨hu, h⟩ | ⟨hr, h⟩) ⟨hrsv, ha, hb, hn⟩
    · exact h ((hzero _).1 hrsv)
    · exact h ((hzero _).1 (ha hu))
    · exact h ((hzero _).1 (hb hu))
    · exact absurd (hn hr) (Nat.not_le.2 h)

end Sys2Proof

open Sys2Proof Sys2Proof.Machine

/-- Settles O1: an encoding holds its command's fields, which Decode reads back. -/
theorem decodeInvertsEncode : Obligations.DecodeInvertsEncode := by
  unfold Obligations.DecodeInvertsEncode
  exact fun _ hwf => decode_encode hwf

/-- Settles O2: an accepted word is its fields, and these are its command's. -/
theorem encodeInvertsDecode : Obligations.EncodeInvertsDecode := by
  unfold Obligations.EncodeInvertsDecode
  exact fun _ _ h => ⟨encode_of_decode h, decode_wellFormed h⟩

/-- Settles O3: each row is that of its operation code. -/
theorem matchAndMaskGiveTheCommand : Obligations.MatchAndMaskGiveTheCommand := by
  unfold Obligations.MatchAndMaskGiveTheCommand
  intro row hrow w
  suffices h : ∃ opc, IsRowOf opc row from h.elim fun _ h => h.decode_iff w
  simp only [List.cons_append, List.nil_append, List.mem_cons, List.not_mem_nil, or_false] at hrow
  obtain rfl | rfl | rfl | rfl | rfl | rfl | rfl | rfl | rfl | rfl | rfl | rfl | rfl | rfl | rfl | rfl := hrow
  · exact ⟨0x00, by decide, by decide, by decide, fun _ _ => rfl⟩
  · exact ⟨0x01, by decide, by decide, by decide, fun _ _ => rfl⟩
  · exact ⟨0x02, by decide, by decide, by decide, fun _ _ => rfl⟩
  · exact ⟨0x03, by decide, by decide, by decide, fun _ _ => rfl⟩
  · exact ⟨0x10, by decide, by decide, by decide, fun _ _ => rfl⟩
  · exact ⟨0x11, by decide, by decide, by decide, fun _ _ => rfl⟩
  · exact ⟨0x12, by decide, by decide, by decide, fun _ _ => rfl⟩
  · exact ⟨0x13, by decide, by decide, by decide, fun _ _ => rfl⟩
  · exact ⟨0x14, by decide, by decide, by decide, fun _ _ => rfl⟩
  · exact ⟨0x15, by decide, by decide, by decide, fun _ _ => rfl⟩
  · exact ⟨0x16, by decide, by decide, by decide, fun _ _ => rfl⟩
  · exact ⟨0x17, by decide, by decide, by decide, fun _ _ => rfl⟩
  · exact ⟨0x20, by decide, by decide, by decide, fun _ _ => rfl⟩
  · exact ⟨0x21, by decide, by decide, by decide, fun _ _ => rfl⟩
  · exact ⟨0x22, by decide, by decide, by decide, fun _ _ => rfl⟩
  · exact ⟨0x23, by decide, by decide, by decide, fun _ _ => rfl⟩

/-- Settles O4: the opcode map decides BadOpcode, then the constraints decide BadOperand. -/
theorem decodeVerdicts : Obligations.DecodeVerdicts := by
  unfold Obligations.DecodeVerdicts
  intro w
  rw [← toNat_opcField, ← toNat_aField, ← toNat_bField, ← toNat_rsvField]
  change (¬IsKnownOpcode _ → _) ∧ (IsKnownOpcode _ → BreaksConstraints _ _ _ _ → _) ∧
    (IsKnownOpcode _ → ¬BreaksConstraints _ _ _ _ → _)
  rw [← not_meetsConstraints_iff, not_not]
  have command_of_known (h : IsKnownOpcode (opcField w).toNat) :
      ∃ i, command (opcField w) (aField w) (bField w) = some i :=
    Option.ne_none_iff_exists'.1 fun hnone => (command_eq_none_iff _ _ _).1 hnone h
  refine ⟨fun hreserved => ?_, fun hknown hbroken => ?_, fun hknown hmeets => ?_⟩
  · exact decode_of_reserved ((command_eq_none_iff _ _ _).2 hreserved)
  · obtain ⟨i, hc⟩ := command_of_known hknown
    exact decode_of_not_meetsConstraints hc hbroken
  · obtain ⟨i, hc⟩ := command_of_known hknown
    have hok := decode_of_meetsConstraints hc hmeets
    obtain ⟨hopc, ha, hb, -⟩ := fields_of_decode hok
    exact ⟨i, hok, congrArg _ hopc, congrArg _ ha, congrArg _ hb⟩

/-- Settles O5: the accepted words are their commands' encodings; the others break R51's checks. -/
theorem sampleWordsDecode : Obligations.SampleWordsDecode := by
  unfold Obligations.SampleWordsDecode
  refine ⟨?gfMul, ?aesArk, ?aesRnd, ?shaBlock, ?nop, ?gfInv, ?unusedA, ?reserved, ?roundIndex⟩
  case gfMul => exact decode_encode (i := .gfMul 0x57 0x83) rfl
  case aesArk => exact decode_encode (i := .aesArk 14) rfl
  case aesRnd => exact decode_encode (i := .aesRnd 1) rfl
  case shaBlock => exact decode_encode (i := .shaBlock) rfl
  case nop => exact decode_encode (i := .nop) rfl
  case gfInv => exact decode_encode (i := .gfInv 0) rfl
  case unusedA => decide
  case reserved => decide
  case roundIndex => decide
end

section
/-! The field unit's statements (40_gf_field.md): the product of R56 is linear in each factor, so what is claimed of all
factors is checked on the eight single bits; EXP turns sums of exponents into products, which makes the multiplier of R60
that product (R61) and gives the inverse (R62) and the S-box (R65). -/

namespace Sys2Proof.Machine

/-! ### The product of polynomials (R56) -/

/-- A fold over a sum is the sum of the folds, where each step is. -/
theorem foldl_xor {n : Nat} {step step₁ step₂ : BitVec n → Nat → BitVec n} {r p q : BitVec n} (hinit : r = p ^^^ q)
    (hstep : ∀ p q i, step (p ^^^ q) i = step₁ p i ^^^ step₂ q i) (l : List Nat) :
    l.foldl step r = l.foldl step₁ p ^^^ l.foldl step₂ q := by
  rw [hinit]
  exact List.foldl_hom₂ l (· ^^^ ·) step₁ step₂ step p q fun p q i => (hstep p q i).symm

/-- A term added under two conditions is in the sum where one of them holds and the other does not. -/
theorem ite_xor_ite {n : Nat} (c d : Bool) (p q x : BitVec n) :
    (if c ^^ d then p ^^^ q ^^^ x else p ^^^ q) = (if c then p ^^^ x else p) ^^^ (if d then q ^^^ x else q) := by
  cases c with
  | false =>
    cases d with
    | false => rfl
    | true => exact BitVec.xor_assoc p q x
  | true =>
    cases d with
    | false =>
      change p ^^^ q ^^^ x = p ^^^ x ^^^ q
      ac_rfl
    | true =>
      calc p ^^^ q = p ^^^ q ^^^ (x ^^^ x) := by rw [BitVec.xor_self, BitVec.xor_zero]
        _ = p ^^^ x ^^^ (q ^^^ x) := by ac_rfl

theorem polyProduct_xor_left (a a' b : Byte) : polyProduct (a ^^^ a') b = polyProduct a b ^^^ polyProduct a' b := by
  refine foldl_xor BitVec.xor_zero.symm (fun p q i => ?_) _
  cases b.getLsbD i with
  | false => rfl
  | true =>
    simp only [if_true, BitVec.setWidth_xor, BitVec.shiftLeft_xor_distrib]
    ac_rfl

theorem polyProduct_xor_right (a b b' : Byte) : polyProduct a (b ^^^ b') = polyProduct a b ^^^ polyProduct a b' := by
  refine foldl_xor BitVec.xor_zero.symm (fun p q i => ?_) _
  rw [BitVec.getLsbD_xor, ite_xor_ite]

theorem polyReduce_xor (p q : BitVec 15) : polyReduce (p ^^^ q) = polyReduce p ^^^ polyReduce q := by
  refine foldl_xor rfl (fun p q i => ?_) _
  rw [BitVec.getLsbD_xor, ite_xor_ite]

theorem polyMul_xor_left (a a' b : Byte) : polyMul (a ^^^ a') b = polyMul a b ^^^ polyMul a' b := by
  simp only [polyMul, polyProduct_xor_left, polyReduce_xor, BitVec.setWidth_xor]

theorem polyMul_xor_right (a b b' : Byte) : polyMul a (b ^^^ b') = polyMul a b ^^^ polyMul a b' := by
  simp only [polyMul, polyProduct_xor_right, polyReduce_xor, BitVec.setWidth_xor]

@[simp] theorem polyMul_zero_left (b : Byte) : polyMul 0#8 b = 0#8 := by
  simpa using polyMul_xor_left 0 0 b

@[simp] theorem polyMul_zero_right (a : Byte) : polyMul a 0#8 = 0#8 := by
  simpa using polyMul_xor_right a 0 0

/-- Each byte is the sum of its bits. -/
theorem foldl_xor_twoPow (x : Byte) :
    (List.range 8).foldl (fun p i => p ^^^ (if x.getLsbD i then BitVec.twoPow 8 i else 0)) 0 = x := by
  revert x
  decide +kernel

/-- What holds of the single bits, and of a sum where it holds of both terms, holds of every byte. -/
theorem byte_xor_induction {motive : Byte → Prop} (bit : ∀ i, i < 8 → motive (BitVec.twoPow 8 i))
    (xor : ∀ x y, motive x → motive y → motive (x ^^^ y)) (x : Byte) : motive x := by
  have zero : motive 0 := by simpa using xor _ _ (bit 0 (by decide)) (bit 0 (by decide))
  rw [← foldl_xor_twoPow x]
  refine List.foldlRecOn (List.range 8) _ zero fun p hp i hi => xor _ _ hp ?_
  split
  · exact bit i (List.mem_range.1 hi)
  · exact zero

theorem polyMul_one (a : Byte) : polyMul a 1 = a := by
  induction a using byte_xor_induction with
  | bit i hi => revert i; decide
  | xor x y hx hy => rw [polyMul_xor_left, hx, hy]

/-- The case of associativity by which EXP is built. -/
theorem polyMul_polyMul_three (a b : Byte) : polyMul (polyMul a b) 3 = polyMul a (polyMul b 3) := by
  induction a using byte_xor_induction with
  | xor x y hx hy => simp only [polyMul_xor_left, hx, hy]
  | bit i hi =>
    induction b using byte_xor_induction with
    | xor x y hx hy => simp only [polyMul_xor_left, polyMul_xor_right, hx, hy]
    | bit j hj => revert j i; decide +kernel

theorem xtime_eq_ite (a : Byte) : xtime a = if a.getLsbD 7 then a <<< 1 ^^^ 0x1B else a <<< 1 := by
  unfold xtime
  induction a using byte_xor_induction with
  | bit i hi => revert i; decide
  | xor x y hx hy => rw [polyMul_xor_left, hx, hy, ← ite_xor_ite, BitVec.getLsbD_xor, BitVec.shiftLeft_xor_distrib]

/-! ### EXP and LOG (R59) -/

theorem expRom_succ : ∀ e, e < 254 → expRom (e + 1) = polyMul (expRom e) 3 := by decide +kernel

theorem expRom_last_mul_three : polyMul (expRom 254) 3 = 1 := by decide +kernel

theorem expRom_zero : expRom 0 = 1 := by decide

theorem logRom_zero : logRom 0 = 0 := by decide

theorem logRom_one : logRom 1 = 0 := by decide

theorem logRom_expRom : ∀ e, e < 255 → logRom (expRom e) = e := by decide +kernel

theorem expRom_logRom : ∀ x : Byte, x ≠ 0 → expRom (logRom x) = x := by decide +kernel

theorem logRom_lt : ∀ x : Byte, logRom x < 255 := by decide +kernel

theorem expRom_ne_zero : ∀ e, e < 255 → expRom e ≠ 0 := by decide +kernel

/-- The exponents count modulo 255. -/
theorem expRom_succ_mod (e : Nat) : expRom ((e + 1) % 255) = polyMul (expRom (e % 255)) 3 := by
  obtain h | h : e % 255 < 254 ∨ e % 255 = 254 := by omega
  · rw [← expRom_succ _ h, show (e + 1) % 255 = e % 255 + 1 by omega]
  · rw [h, expRom_last_mul_three, show (e + 1) % 255 = 0 by omega, expRom_zero]

/-- The antilogarithm of a sum is the product of the antilogarithms. -/
theorem expRom_add_mod {e f : Nat} (he : e < 255) (hf : f < 255) :
    expRom ((e + f) % 255) = polyMul (expRom e) (expRom f) := by
  induction f with
  | zero => rw [Nat.add_zero, Nat.mod_eq_of_lt he, expRom_zero, polyMul_one]
  | succ f ih =>
    calc expRom ((e + f + 1) % 255)
        = polyMul (polyMul (expRom e) (expRom f)) 3 := by rw [expRom_succ_mod, ih (by omega)]
      _ = polyMul (expRom e) (expRom (f + 1)) := by rw [polyMul_polyMul_three, expRom_succ f (by omega)]

/-! ### The multiplier and the inverse (R60 to R63) -/

theorem gfMul_of_ne_zero {a b : Byte} (ha : a ≠ 0) (hb : b ≠ 0) :
    gfMul a b = expRom ((logRom a + logRom b) % 255) := if_pos ⟨ha, hb⟩

@[simp] theorem gfMul_zero_left (b : Byte) : gfMul 0#8 b = 0#8 := if_neg fun h => h.1 rfl

@[simp] theorem gfMul_zero_right (a : Byte) : gfMul a 0#8 = 0#8 := if_neg fun h => h.2 rfl

theorem gfMul_eq_polyMul (a b : Byte) : gfMul a b = polyMul a b := by
  by_cases ha : a = 0
  · simp [ha]
  by_cases hb : b = 0
  · simp [hb]
  rw [gfMul_of_ne_zero ha hb, expRom_add_mod (logRom_lt a) (logRom_lt b), expRom_logRom a ha, expRom_logRom b hb]

theorem gfMul_expRom {e f : Nat} (he : e < 255) (hf : f < 255) :
    gfMul (expRom e) (expRom f) = expRom ((e + f) % 255) := by
  rw [gfMul_eq_polyMul, expRom_add_mod he hf]

theorem gfMul_comm (a b : Byte) : gfMul a b = gfMul b a := by
  simp only [gfMul, eAdd, and_comm, Nat.add_comm]

/-- A nonzero element is a power of the generator. -/
theorem exists_expRom_of_ne_zero {x : Byte} (hx : x ≠ 0) : ∃ e, e < 255 ∧ expRom e = x :=
  ⟨logRom x, logRom_lt x, expRom_logRom x hx⟩

theorem gfMul_assoc (a b c : Byte) : gfMul (gfMul a b) c = gfMul a (gfMul b c) := by
  by_cases ha : a = 0
  · simp [ha]
  by_cases hb : b = 0
  · simp [hb]
  by_cases hc : c = 0
  · simp [hc]
  obtain ⟨e, he, rfl⟩ := exists_expRom_of_ne_zero ha
  obtain ⟨f, hf, rfl⟩ := exists_expRom_of_ne_zero hb
  obtain ⟨g, hg, rfl⟩ := exists_expRom_of_ne_zero hc
  have hlt (n : Nat) : n % 255 < 255 := Nat.mod_lt n (by decide)
  rw [gfMul_expRom he hf, gfMul_expRom hf hg, gfMul_expRom (hlt _) hg, gfMul_expRom he (hlt _), Nat.mod_add_mod,
    Nat.add_mod_mod, Nat.add_assoc]

theorem gfInv_of_ne_zero {a : Byte} (ha : a ≠ 0) : gfInv a = some (expRom ((255 - logRom a) % 255)) := by
  rw [gfInv, if_neg ha, eSub, logRom_one]

theorem gfMul_inverse {a : Byte} (ha : a ≠ 0) : gfMul a (expRom ((255 - logRom a) % 255)) = 1 := by
  have hlt := logRom_lt a
  have hsum : (logRom a + (255 - logRom a) % 255) % 255 = 0 := by omega
  calc gfMul a (expRom ((255 - logRom a) % 255))
      = gfMul (expRom (logRom a)) (expRom ((255 - logRom a) % 255)) := by rw [expRom_logRom a ha]
    _ = 1 := by rw [gfMul_expRom hlt (Nat.mod_lt _ (by decide)), hsum, expRom_zero]

@[simp] theorem inv0_zero : inv0 0#8 = 0#8 := rfl

theorem inv0_of_ne_zero {a : Byte} (ha : a ≠ 0) : inv0 a = expRom ((255 - logRom a) % 255) := by
  rw [inv0, gfInv_of_ne_zero ha, Option.getD_some]

theorem inv0_inv0 (a : Byte) : inv0 (inv0 a) = a := by
  by_cases ha : a = 0
  · simp [ha]
  have hlt := logRom_lt a
  have hlog : (255 - (255 - logRom a) % 255) % 255 = logRom a := by omega
  have he : (255 - logRom a) % 255 < 255 := Nat.mod_lt _ (by decide)
  rw [inv0_of_ne_zero ha, inv0_of_ne_zero (expRom_ne_zero _ he), logRom_expRom _ he, hlog, expRom_logRom a ha]

/-! ### The S-box (R64, R65) -/

theorem rotl8_eq_rotateLeft (x : Byte) {n : Nat} (hn : n < 8) : rotl8 x n = x.rotateLeft n := by
  rw [BitVec.rotateLeft_def, Nat.mod_eq_of_lt hn, rotl8]

/-- The inverse of the affine step. -/
def invAffine (y : Byte) : Byte := rotl8 y 1 ^^^ rotl8 y 3 ^^^ rotl8 y 6 ^^^ 0x05

theorem invAffine_affine : ∀ s : Byte, invAffine (affine s) = s := by decide +kernel

theorem sbox_injective : Function.Injective sbox :=
  (Function.LeftInverse.injective invAffine_affine).comp (Function.LeftInverse.injective inv0_inv0)

theorem sbox_ne : ∀ x : Byte, sbox x ≠ x ∧ sbox x ≠ x ^^^ 0xFF := by decide +kernel

/-! ### The field commands (R66 to R68) -/

/-- The state after a field command that left `r` in GFRES. -/
theorem retire_putGfres (r : Byte) (s : State) :
    retire (putGfres r s) = { s with gfres := r, engine := .idle, done := true } := rfl

theorem exec_gfMul (a b : Byte) (s : State) : exec (.gfMul a b) s = .next (retire (putGfres (gfMul a b) s)) := rfl

theorem exec_gfInv_of_ne_zero {a : Byte} (ha : a ≠ 0) (s : State) :
    exec (.gfInv a) s = .next (retire (putGfres (expRom ((255 - logRom a) % 255)) s)) := by
  rw [exec, execGfInv, gfInv_of_ne_zero ha]

theorem exec_gfSbox (x : Byte) (s : State) : exec (.gfSbox x) s = .next (retire (putGfres (sbox x) s)) := rfl

end Sys2Proof.Machine

open Sys2Proof Sys2Proof.Machine

/-- Settles O7: it is the product of polynomials, which is linear, and a sum of exponents, which is commutative and
associative. -/
theorem gfMulIsFieldMultiplication : Obligations.GfMulIsFieldMultiplication := by
  unfold Obligations.GfMulIsFieldMultiplication
  refine ⟨gfMul_eq_polyMul, gfMul_comm, gfMul_assoc, fun a b c => ?distrib, fun a => ?unit⟩
  case distrib => simp only [gfMul_eq_polyMul, polyMul_xor_right]
  case unit => exact (gfMul_eq_polyMul a 1).trans (polyMul_one a)

/-- Settles O9: the multiplier's result is the product of polynomials. -/
theorem gfMulWritesTheProduct : Obligations.GfMulWritesTheProduct := by
  unfold Obligations.GfMulWritesTheProduct
  intro a b s
  refine ⟨by rw [exec_gfMul, gfMul_eq_polyMul, retire_putGfres], ?_⟩
  rintro (rfl | rfl)
  · exact polyMul_zero_left b
  · exact polyMul_zero_right a

/-- Settles O10: the exponents of the element and of its inverse sum to 0 modulo 255. -/
theorem gfInvWritesTheInverse : Obligations.GfInvWritesTheInverse := by
  unfold Obligations.GfInvWritesTheInverse
  intro a s ha
  exact ⟨by rw [exec_gfInv_of_ne_zero ha, retire_putGfres], gfMul_inverse ha⟩

/-- Settles O12, with Inv0 for the inverse. -/
theorem gfSboxWritesTheAffineInverse : Obligations.GfSboxWritesTheAffineInverse := by
  unfold Obligations.GfSboxWritesTheAffineInverse
  intro x s
  refine ⟨inv0 x, ?zero, ?inverse, ?result⟩
  case zero =>
    rintro rfl
    exact inv0_zero
  case inverse =>
    intro hx
    rw [inv0_of_ne_zero hx]
    exact gfMul_inverse hx
  case result =>
    rw [exec_gfSbox, retire_putGfres, sbox, affine, rotl8_eq_rotateLeft, rotl8_eq_rotateLeft, rotl8_eq_rotateLeft,
      rotl8_eq_rotateLeft]
    all_goals decide

/-- Settles O6, by the entries of the two tables. -/
theorem logTablesAreDiscreteLogarithms : Obligations.LogTablesAreDiscreteLogarithms := by
  unfold Obligations.LogTablesAreDiscreteLogarithms
  exact ⟨expRom_zero, expRom_succ, expRom_last_mul_three, logRom_expRom, expRom_logRom, logRom_zero⟩

/-- Settles O8: the shift and its conditional reduction are linear too, so the eight bits decide. -/
theorem xtimeIsShiftAndReduce : Obligations.XtimeIsShiftAndReduce := by
  unfold Obligations.XtimeIsShiftAndReduce
  intro a
  rw [xtime_eq_ite]
  cases a.getLsbD 7 with
  | true => rfl
  | false => exact BitVec.xor_zero.symm

/-- Settles O13: the affine step and Inv0 are both invertible. -/
theorem sboxIsAPermutationWithoutFixedPoints : Obligations.SboxIsAPermutationWithoutFixedPoints := by
  unfold Obligations.SboxIsAPermutationWithoutFixedPoints
  exact ⟨fun _ => rfl, fun _ _ h => sbox_injective h, sbox_ne⟩
end

section
/-! The key schedule's statements (41_aes_key_schedule.md): a pass of the expander stores one word above the bytes it reads,
and no later pass stores there again, so each pass's equation holds of the finished key (R72); and the finished key begins
with the raw key it was made from (R73). -/

namespace Sys2Proof.Machine

/-! ### The round constants (R70) -/

theorem rcon_succ : ∀ j, j < 7 → 1 ≤ j → rcon (j + 1) = xtime (rcon j) := by decide

/-! ### The working word (R72) -/

theorem keyTemp_of_mod_eq_zero {i : Nat} (h : i % 32 = 0) (t : KeyWord) :
    keyTemp i t = ⟨sbox t.t1 ^^^ rcon (i / 32), sbox t.t2, sbox t.t3, sbox t.t0⟩ := by
  simp [keyTemp, h, xorWord, subWord, rotWord, fAdd]

theorem keyTemp_of_mod_eq_sixteen {i : Nat} (h : i % 32 = 16) (t : KeyWord) : keyTemp i t = subWord t := by
  simp [keyTemp, h]

theorem keyTemp_of_mod_ne {i : Nat} (h0 : i % 32 ≠ 0) (h16 : i % 32 ≠ 16) (t : KeyWord) : keyTemp i t = t := by
  rw [keyTemp, if_neg h0, if_neg h16]

/-! ### The passes of the expander (R72) -/

section
variable (key : Vector Byte 240)

theorem keyWordAt_putKeyWord_same {i : Nat} (h : i + 3 < 240) (t : KeyWord) :
    keyWordAt (putKeyWord key i t) i = t := by
  simp [keyWordAt, keyByte_putKeyWord _ _ _ h]

theorem keyByte_putKeyWord_of_lt {i k : Nat} (h : i + 3 < 240) (hk : k < i) (t : KeyWord) :
    keyByte (putKeyWord key i t) k = keyByte key k := by
  rw [keyByte_putKeyWord _ _ _ h, if_neg, if_neg, if_neg, if_neg] <;> omega

/-- The passes after the first `n` keep the bytes that are there by then. -/
theorem keyByte_keyExpandLoop_of_lt {n m k : Nat} (hnm : n ≤ m) (hm : m ≤ 52) (hk : k < 32 + 4 * n) :
    keyByte (keyExpandLoop key m) k = keyByte (keyExpandLoop key n) k := by
  induction m, hnm using Nat.le_induction with
  | base => rfl
  | succ m hnm ih =>
    rw [keyExpandLoop, keyExpandWord, keyByte_putKeyWord_of_lt _ (by omega) (by omega), ih (by omega)]

theorem keyWordAt_keyExpandLoop_of_lt {n m i : Nat} (hnm : n ≤ m) (hm : m ≤ 52) (hi : i + 3 < 32 + 4 * n) :
    keyWordAt (keyExpandLoop key m) i = keyWordAt (keyExpandLoop key n) i := by
  simp only [keyWordAt]
  congr 1 <;> exact keyByte_keyExpandLoop_of_lt key hnm hm (by omega)

/-- Each pass's equation still holds after the last pass. -/
theorem keyWordAt_keyExpandLoop {n : Nat} (hn : n < 52) :
    keyWordAt (keyExpandLoop key 52) (32 + 4 * n) =
      xorWord (keyWordAt (keyExpandLoop key 52) (32 + 4 * n - 32))
        (keyTemp (32 + 4 * n) (keyWordAt (keyExpandLoop key 52) (32 + 4 * n - 4))) := by
  rw [keyWordAt_keyExpandLoop_of_lt key (n := n + 1) hn le_rfl (by omega),
    keyWordAt_keyExpandLoop_of_lt key (n := n) hn.le le_rfl (i := 32 + 4 * n - 32) (by omega),
    keyWordAt_keyExpandLoop_of_lt key (n := n) hn.le le_rfl (i := 32 + 4 * n - 4) (by omega), keyExpandLoop, keyExpandWord,
    keyWordAt_putKeyWord_same _ (by omega)]

end

/-! ### The expanded key (R72) -/

/-- The word at offset `i` summed with the images of the word at offset `j`, byte by byte. -/
theorem keyByte_add_of_keyWordAt_eq {key : Vector Byte 240} (f : Byte → Byte) {l i j : Nat}
    (h : keyWordAt key l = xorWord (keyWordAt key i)
      ⟨f (keyByte key j), f (keyByte key (j + 1)), f (keyByte key (j + 2)), f (keyByte key (j + 3))⟩) :
    ∀ m, m < 4 → keyByte key (l + m) = keyByte key (i + m) ^^^ f (keyByte key (j + m)) := by
  obtain ⟨h0, h1, h2, h3⟩ := KeyWord.mk.inj h
  intro m hm
  interval_cases m
  exacts [h0, h1, h2, h3]

section
variable (raw : Vector Byte 32)

/-- The equation of R72 for a word of the expanded key, 32 bytes after the word at offset `4 * n`. -/
theorem keyWordAt_keyExpand {n : Nat} (hn : n < 52) :
    keyWordAt (keyExpand raw) (4 * n + 32) =
      xorWord (keyWordAt (keyExpand raw) (4 * n)) (keyTemp (4 * n + 32) (keyWordAt (keyExpand raw) (4 * n + 28))) := by
  unfold keyExpand
  simpa [Nat.add_comm 32] using keyWordAt_keyExpandLoop _ hn

/-- The expanded key begins with the raw key. -/
theorem getElem_keyExpand_of_lt {k : Nat} (hk : k < 32) : (keyExpand raw)[k] = raw[k] := by
  rw [← keyByte_of_lt, keyExpand, keyByte_keyExpandLoop_of_lt _ (Nat.zero_le 52) le_rfl (by omega), keyExpandLoop,
    keyByte_of_lt _ _ (by omega)]
  simp [hk]

end

/-! ### The command (R73) -/

section
variable {s : State} {raw : Vector Byte 32}

/-- Writing the tail of the expanded key writes all of it, as its head is the raw key that is there. -/
theorem withKeyTail_keyExpand (h : s.rawKey = some raw) : withKeyTail (keyExpand raw) s.key = written (keyExpand raw) := by
  ext i hi : 1
  rw [getElem_withKeyTail, getElem_written]
  split
  next hlt => rw [getElem_keyExpand_of_lt raw hlt, (rawKey_eq_some s raw).1 h ⟨i, hlt⟩]; rfl
  next => rfl

theorem exec_aesKeyexp (h : s.rawKey = some raw) :
    exec .aesKeyexp s = .next { s with key := written (keyExpand raw), engine := .idle, done := true } := by
  rw [exec, execAesKeyexp, h, completeWith_some, putKeyTail, withKeyTail_keyExpand h, retire]

/-- The raw key is what it was where KEY holds its expansion. -/
theorem rawKey_of_key_eq_keyExpand (h : s.key = written (keyExpand raw)) : s.rawKey = some raw := by
  rw [rawKey_eq_some]
  intro k
  simp [h, getElem_keyExpand_of_lt]

end

end Sys2Proof.Machine

open Sys2Proof Sys2Proof.Machine

/-- Settles O14, by the seven entries. -/
theorem roundConstantsDouble : Obligations.RoundConstantsDouble := by
  unfold Obligations.RoundConstantsDouble
  exact ⟨rfl, fun j hpos hlt => rcon_succ j hlt hpos, rfl⟩

/-- Settles O16: KEY[0..31], all that the expander reads, still holds the raw key. -/
theorem keyExpansionIsIdempotent : Obligations.KeyExpansionIsIdempotent := by
  unfold Obligations.KeyExpansionIsIdempotent
  intro s t hs ht
  obtain ⟨raw, hraw⟩ := (rawKey_exists_iff_lt s).2 hs
  rw [exec_aesKeyexp hraw] at ht
  obtain rfl := Host.Outcome.next.inj ht
  exact exec_aesKeyexp (rawKey_of_key_eq_keyExpand rfl)

/-- Settles O15: the three cases are those of the working word in the equation of a pass. -/
theorem keyExpansionRecurrence : Obligations.KeyExpansionRecurrence := by
  unfold Obligations.KeyExpansionRecurrence
  intro s raw hraw
  refine ⟨keyExpand raw, exec_aesKeyexp ((rawKey_eq_some s raw).2 hraw), fun k => getElem_keyExpand_of_lt raw k.isLt, ?_⟩
  intro n hn
  rw [Nat.add_comm 32 (4 * n)]
  intro i k
  have hword := keyWordAt_keyExpand raw hn
  refine ⟨fun h0 => ?group, fun h16 => ?middle, fun h0 h16 => ?other⟩
  case group =>
    rw [keyTemp_of_mod_eq_zero h0] at hword
    exact KeyWord.mk.inj hword
  case middle =>
    rw [keyTemp_of_mod_eq_sixteen h16] at hword
    exact keyByte_add_of_keyWordAt_eq sbox hword
  case other =>
    rw [keyTemp_of_mod_ne h0 h16] at hword
    exact keyByte_add_of_keyWordAt_eq id hword
end

section
/-! The cipher's statements (42_aes_cipher.md): a command with its operands written leaves in STATE its function of them
(R80 to R86) and keeps KEY, so the next command finds the same round keys, and a sequence of commands composes the
functions. -/

namespace Sys2Proof.Machine

/-! ### The round transforms (R77 to R79) -/

theorem shiftRows_eq (st : Vector Byte 16) :
    shiftRows st = #v[st[0], st[5], st[10], st[15], st[4], st[9], st[14], st[3], st[8], st[13], st[2], st[7], st[12], st[1],
      st[6], st[11]] := by
  ext k hk : 1
  rw [getElem_shiftRows]
  interval_cases k <;> rfl

/-- Row `r` of the state moves left by `r` columns, so after four times by a multiple of four. -/
theorem shiftRows_four_times (st : Vector Byte 16) : shiftRows (shiftRows (shiftRows (shiftRows st))) = st := by
  ext k hk : 1
  simp only [getElem_shiftRows]
  congr 1
  omega

theorem addRoundKey_eq (rk st : Vector Byte 16) : addRoundKey rk st = Vector.ofFn fun k => st[k] ^^^ rk[k] := by
  ext k hk : 1
  rw [getElem_addRoundKey, Vector.getElem_ofFn]
  rfl

theorem addRoundKey_addRoundKey (rk st : Vector Byte 16) : addRoundKey rk (addRoundKey rk st) = st := by
  ext k hk : 1
  simp only [getElem_addRoundKey, fAdd]
  rw [BitVec.xor_assoc, BitVec.xor_self, BitVec.xor_zero]

theorem subBytes_eq (st : Vector Byte 16) : subBytes st = Vector.ofFn fun k => sbox st[k] := by
  unfold subBytes
  rfl

theorem gfMul_one_left (a : Byte) : gfMul 1 a = a := by
  rw [gfMul_comm, gfMul_eq_polyMul, polyMul_one]

theorem mixByte_mixRow_zero (s : KeyWord) :
    mixByte (mixRow 0) s = gfMul 2 s.t0 ^^^ gfMul 3 s.t1 ^^^ s.t2 ^^^ s.t3 := by
  simp only [mixByte, mixRow, fAdd, gfMul_one_left]

theorem mixByte_mixRow_one (s : KeyWord) :
    mixByte (mixRow 1) s = s.t0 ^^^ gfMul 2 s.t1 ^^^ gfMul 3 s.t2 ^^^ s.t3 := by
  simp only [mixByte, mixRow, fAdd, gfMul_one_left]

theorem mixByte_mixRow_two (s : KeyWord) :
    mixByte (mixRow 2) s = s.t0 ^^^ s.t1 ^^^ gfMul 2 s.t2 ^^^ gfMul 3 s.t3 := by
  simp only [mixByte, mixRow, fAdd, gfMul_one_left]

theorem mixByte_mixRow_three (s : KeyWord) :
    mixByte (mixRow 3) s = gfMul 3 s.t0 ^^^ s.t1 ^^^ s.t2 ^^^ gfMul 2 s.t3 := by
  simp only [mixByte, mixRow, fAdd, gfMul_one_left]

/-- Element `r` of column `c` is row `r` of the matrix times the column (R78). -/
theorem getElem_mixColumns_column (st : Vector Byte 16) (c : Fin 4) (r : Nat) (hr : r < 4) :
    (mixColumns st)[4 * c.val + r] = mixByte (mixRow r) (stateColumn st c) := by
  have hrow : (4 * c.val + r) % 4 = r := by omega
  have hcol : (4 * c.val + r) / 4 = c.val := by omega
  simp only [getElem_mixColumns, hrow, hcol]

/-! ### Sequences of commands -/

theorem execAll_cons_of_next {i : Instr} {s t : State} (h : exec i s = .next t) (rest : List Instr) :
    execAll (i :: rest) s = execAll rest t := by
  rw [execAll, h]

theorem execAll_append_of_next {l : List Instr} {s t : State} (h : execAll l s = .next t) (rest : List Instr) :
    execAll (l ++ rest) s = execAll rest t := by
  induction l generalizing s with
  | nil =>
    obtain rfl := Host.Outcome.next.inj h
    rfl
  | cons i l ih =>
    rw [execAll] at h
    split at h
    next u hu => exact (execAll_cons_of_next hu _).trans (ih h)
    next => cases h
    next => cases h

/-! ### The completion of a cipher command (R80 to R86) -/

/-- The state after a cipher command that left `v` in STATE. -/
theorem retire_putSt (v : Vector Byte 16) (s : State) :
    retire (putSt v s) = { s with st := written v, engine := .idle, done := true } := rfl

/-- Of two cipher commands the second one's STATE stays. -/
theorem retire_putSt_retire_putSt (v u : Vector Byte 16) (s : State) :
    retire (putSt v (retire (putSt u s))) = retire (putSt v s) := rfl

theorem withRoundIndex_of_eq {n : Byte} {r : Fin 15} (hn : n.toNat = r.val) (i : Instr)
    (run : Fin 15 → State → Host.Outcome State Fault Refusal) (s : State) : withRoundIndex i n run s = run r s := by
  rw [withRoundIndex_of_le i n run s (by omega)]
  congr 1
  exact Fin.ext hn

section
variable {s : State} {st rk : Vector Byte 16} {n : Byte} {r : Fin 15}

theorem stateCommand_of_written (f : Vector Byte 16 → Vector Byte 16) (hst : s.st = written st) :
    stateCommand f s = .next (retire (putSt (f st) s)) := by
  rw [stateCommand, (stBytes_eq_some s st).2 hst, completeWith_some]

theorem roundCommand_of_written (i : Instr) (f : Vector Byte 16 → Vector Byte 16 → Vector Byte 16) (hn : n.toNat = r.val)
    (hrk : s.roundKey r = some rk) (hst : s.st = written st) :
    roundCommand i n f s = .next (retire (putSt (f rk st) s)) := by
  rw [roundCommand, withRoundIndex_of_eq hn, (bothWritten_eq_some _ _ rk st).2 ⟨hrk, (stBytes_eq_some s st).2 hst⟩,
    completeWith_some]

theorem exec_aesSub (hst : s.st = written st) : exec .aesSub s = .next (retire (putSt (subBytes st) s)) :=
  stateCommand_of_written subBytes hst

theorem exec_aesShr (hst : s.st = written st) : exec .aesShr s = .next (retire (putSt (shiftRows st) s)) :=
  stateCommand_of_written shiftRows hst

theorem exec_aesMix (hst : s.st = written st) : exec .aesMix s = .next (retire (putSt (mixColumns st) s)) :=
  stateCommand_of_written mixColumns hst

theorem exec_aesArk (hn : n.toNat = r.val) (hrk : s.roundKey r = some rk) (hst : s.st = written st) :
    exec (.aesArk n) s = .next (retire (putSt (addRoundKey rk st) s)) :=
  roundCommand_of_written (.aesArk n) addRoundKey hn hrk hst

theorem exec_aesRnd (hn : n.toNat = r.val) (hrk : s.roundKey r = some rk) (hst : s.st = written st) :
    exec (.aesRnd n) s = .next (retire (putSt (fullRound rk st) s)) :=
  roundCommand_of_written (.aesRnd n) fullRound hn hrk hst

theorem exec_aesLast (hn : n.toNat = r.val) (hrk : s.roundKey r = some rk) (hst : s.st = written st) :
    exec (.aesLast n) s = .next (retire (putSt (lastRound rk st) s)) :=
  roundCommand_of_written (.aesLast n) lastRound hn hrk hst

theorem exists_st_eq_written (h : ∀ k : Fin 16, s.st[k].isSome) : ∃ st, s.st = written st := by
  obtain ⟨st, hst⟩ := (stBytes_exists s).2 h
  exact ⟨st, (stBytes_eq_some s st).1 hst⟩

/-- A cipher command keeps the round keys. -/
theorem roundKey_retire_putSt (hrk : s.roundKey r = some rk) (v : Vector Byte 16) :
    (retire (putSt v s)).roundKey r = some rk := hrk

/-- The operands of AES_ARK, AES_RND and AES_LAST. -/
theorem exists_roundKey_of_written (hn : n.toNat ≤ 14) (h : operandsWritten.roundKeyWritten n s) :
    ∃ (r : Fin 15) (rk : Vector Byte 16), n.toNat = r.val ∧ s.roundKey r = some rk := by
  obtain ⟨rk, hrk⟩ := (roundKey_exists_iff_roundKeyWritten n (by omega) s).2 h
  exact ⟨_, rk, rfl, hrk⟩

/-! ### The whole encryption (R86) -/

variable {key : Vector Byte 240}

theorem exec_aesEnc (hkey : s.key = written key) (hst : s.st = written st) :
    exec .aesEnc s = .next (retire (putSt (encryptBlock key st) s)) := by
  rw [exec, execAesEnc,
    (bothWritten_eq_some _ _ key st).2 ⟨(keyBytes_eq_some s key).2 hkey, (stBytes_eq_some s st).2 hst⟩, completeWith_some]

theorem roundKey_of_key_eq_written (hkey : s.key = written key) (r : Fin 15) : s.roundKey r = some (roundKeyOf key r) := by
  rw [roundKey_eq_some]
  intro k
  simp [hkey]

/-- AES_ARK 0; AES_RND 1; …; AES_RND n: the sequence of R86 up to the round `n`. -/
def encCommands : Nat → List Instr
  | 0 => [.aesArk 0]
  | n + 1 => encCommands n ++ [.aesRnd (BitVec.ofNat 8 (n + 1))]

theorem execAll_encCommands (hkey : s.key = written key) (hst : s.st = written st) {n : Nat} (hn : n < 15) :
    execAll (encCommands n) s = .next (retire (putSt (encRounds key st n) s)) := by
  induction n with
  | zero =>
    have h0 : (0 : Byte).toNat = (0 : Fin 15).val := rfl
    exact execAll_cons_of_next (exec_aesArk h0 (roundKey_of_key_eq_written hkey 0) hst) []
  | succ n ih =>
    have hindex : (BitVec.ofNat 8 (n + 1)).toNat = (Fin.ofNat 15 (n + 1)).val := by
      rw [BitVec.toNat_ofNat, Fin.val_ofNat]
      omega
    have hrk := roundKey_of_key_eq_written hkey (Fin.ofNat 15 (n + 1))
    rw [encCommands, execAll_append_of_next (ih (by omega)),
      execAll_cons_of_next (exec_aesRnd hindex (roundKey_retire_putSt hrk _) rfl), retire_putSt_retire_putSt]
    rfl

end

end Sys2Proof.Machine

open Sys2Proof Sys2Proof.Machine

/-- Settles O17: the round key is the operand RK(n). -/
theorem addRoundKeyXorsTheRoundKey : Obligations.AddRoundKeyXorsTheRoundKey := by
  unfold Obligations.AddRoundKeyXorsTheRoundKey
  intro s n st rk hst hkey
  have hn : (BitVec.ofNat 8 n.val).toNat = n.val := by
    rw [BitVec.toNat_ofNat]
    omega
  rw [exec_aesArk hn ((roundKey_eq_some s n rk).2 hkey) hst, addRoundKey_eq, retire_putSt]

/-- Settles O19: the rule's index list is that of its formula. -/
theorem shiftRowsPermutesTheBytes : Obligations.ShiftRowsPermutesTheBytes := by
  unfold Obligations.ShiftRowsPermutesTheBytes
  intro s st hst
  rw [exec_aesShr hst, shiftRows_eq, retire_putSt]

/-- Settles O20: each row of the matrix times the column, with a factor of 1 left out. -/
theorem mixColumnsMultipliesByTheMatrix : Obligations.MixColumnsMultipliesByTheMatrix := by
  unfold Obligations.MixColumnsMultipliesByTheMatrix
  intro s st hst
  refine ⟨mixColumns st, by rw [exec_aesMix hst, retire_putSt], fun c => ⟨?_, ?_, ?_, ?_⟩⟩
  · exact (getElem_mixColumns_column st c 0 (by decide)).trans (mixByte_mixRow_zero _)
  · exact (getElem_mixColumns_column st c 1 (by decide)).trans (mixByte_mixRow_one _)
  · exact (getElem_mixColumns_column st c 2 (by decide)).trans (mixByte_mixRow_two _)
  · exact (getElem_mixColumns_column st c 3 (by decide)).trans (mixByte_mixRow_three _)

/-- Settles O21: the four commands compose to the full round, as none of them changes RK(n). -/
theorem fullRoundIsItsFourSteps : Obligations.FullRoundIsItsFourSteps := by
  unfold Obligations.FullRoundIsItsFourSteps
  intro s n hn ⟨hkeyWritten, hstWritten⟩
  obtain ⟨r, rk, hr, hrk⟩ := exists_roundKey_of_written hn hkeyWritten
  obtain ⟨st, hst⟩ := exists_st_eq_written hstWritten
  refine ⟨_, exec_aesRnd hr hrk hst, ?_⟩
  rw [execAll_cons_of_next (exec_aesSub hst), execAll_cons_of_next (exec_aesShr rfl), execAll_cons_of_next (exec_aesMix rfl),
    retire_putSt_retire_putSt, retire_putSt_retire_putSt,
    execAll_cons_of_next (exec_aesArk hr (roundKey_retire_putSt hrk _) rfl)]
  rfl

/-- Settles O22: the three commands compose to the last round, as none of them changes RK(n). -/
theorem lastRoundIsItsThreeSteps : Obligations.LastRoundIsItsThreeSteps := by
  unfold Obligations.LastRoundIsItsThreeSteps
  intro s n hn ⟨hkeyWritten, hstWritten⟩
  obtain ⟨r, rk, hr, hrk⟩ := exists_roundKey_of_written hn hkeyWritten
  obtain ⟨st, hst⟩ := exists_st_eq_written hstWritten
  refine ⟨_, exec_aesLast hr hrk hst, ?_⟩
  rw [execAll_cons_of_next (exec_aesSub hst), execAll_cons_of_next (exec_aesShr rfl),
    retire_putSt_retire_putSt, execAll_cons_of_next (exec_aesArk hr (roundKey_retire_putSt hrk _) rfl)]
  rfl

/-- Settles O23: by induction on the rounds up to AES_RND 13, and then AES_LAST 14. -/
theorem encryptionIsFifteenCommands : Obligations.EncryptionIsFifteenCommands := by
  unfold Obligations.EncryptionIsFifteenCommands
  intro s ⟨hkeyWritten, hstWritten⟩
  obtain ⟨key, hkeyBytes⟩ := (keyBytes_exists s).2 hkeyWritten
  have hkey := (keyBytes_eq_some s key).1 hkeyBytes
  obtain ⟨st, hst⟩ := exists_st_eq_written hstWritten
  refine ⟨_, exec_aesEnc hkey hst, ?_⟩
  change execAll (encCommands 13 ++ [.aesLast 14]) s = _
  have hlast : (14 : Byte).toNat = (14 : Fin 15).val := rfl
  have hrk := roundKey_of_key_eq_written hkey 14
  rw [execAll_append_of_next (execAll_encCommands hkey hst (by decide)),
    execAll_cons_of_next (exec_aesLast hlast (roundKey_retire_putSt hrk _) rfl), encryptBlock]
  rfl

/-- Settles O24: each sequence composes its function with itself, which gives the identity. -/
theorem selfInverseSteps : Obligations.SelfInverseSteps := by
  unfold Obligations.SelfInverseSteps
  refine ⟨fun s t n hn hop ht => ?addRoundKey, fun s t hop ht => ?shiftRows⟩
  case addRoundKey =>
    obtain ⟨hkeyWritten, hstWritten⟩ := hop
    obtain ⟨r, rk, hr, hrk⟩ := exists_roundKey_of_written hn hkeyWritten
    obtain ⟨st, hst⟩ := exists_st_eq_written hstWritten
    rw [execAll_cons_of_next (exec_aesArk hr hrk hst),
      execAll_cons_of_next (exec_aesArk hr (roundKey_retire_putSt hrk _) rfl), addRoundKey_addRoundKey] at ht
    obtain rfl := Host.Outcome.next.inj ht
    exact hst.symm
  case shiftRows =>
    obtain ⟨st, hst⟩ := exists_st_eq_written hop
    rw [execAll_cons_of_next (exec_aesShr hst), execAll_cons_of_next (exec_aesShr rfl), execAll_cons_of_next (exec_aesShr rfl),
      execAll_cons_of_next (exec_aesShr rfl), shiftRows_four_times] at ht
    obtain rfl := Host.Outcome.next.inj ht
    exact hst.symm

/-- Settles O18: AES_SUB has SubBytes for its function of STATE. -/
theorem subBytesAppliesTheSbox : Obligations.SubBytesAppliesTheSbox := by
  unfold Obligations.SubBytesAppliesTheSbox
  intro s st hst
  rw [exec_aesSub hst, subBytes_eq, retire_putSt]
end

section
/-! The message schedule's statement (43_sha_schedule.md): a pass of the second loop writes one word above those it reads, and
no later pass writes there again, so each pass's equation and the words of the block hold of the finished schedule (R90). -/

namespace Sys2Proof.Machine

/-! ### The small sigma functions (R88, R89) -/

theorem rotr_eq_rotateRight (x : Word) {n : Nat} (hn : n < 32) : rotr x n = x.rotateRight n := by
  rw [BitVec.rotateRight_def, Nat.mod_eq_of_lt hn, rotr]

theorem smallSigma0_eq (x : Word) : smallSigma0 x = x.rotateRight 7 ^^^ x.rotateRight 18 ^^^ (x >>> 3) := by
  rw [smallSigma0, rotr_eq_rotateRight x (by decide), rotr_eq_rotateRight x (by decide)]

theorem smallSigma1_eq (x : Word) : smallSigma1 x = x.rotateRight 17 ^^^ x.rotateRight 19 ^^^ (x >>> 10) := by
  rw [smallSigma1, rotr_eq_rotateRight x (by decide), rotr_eq_rotateRight x (by decide)]

/-! ### The passes of the second loop (R90) -/

/-- The recurrence reads the words below its own alone, so it is the same in two schedules that agree there. -/
theorem schedNext_congr {v w : Vector Word 64} {t : Nat} (ht : 16 ≤ t)
    (h : ∀ u, u < t → schedWord v u = schedWord w u) : schedNext v t = schedNext w t := by
  rw [schedNext, h (t - 2) (by omega), h (t - 7) (by omega), h (t - 15) (by omega), h (t - 16) (by omega), schedNext]

section
variable (w : Vector Word 64)

/-- The passes after the first `n` keep the words that are there by then. -/
theorem schedWord_schedLoop_of_lt {n k u : Nat} (hnk : n ≤ k) (hk : k ≤ 48) (hu : u < 16 + n) :
    schedWord (schedLoop w k) u = schedWord (schedLoop w n) u := by
  induction k, hnk using Nat.le_induction with
  | base => rfl
  | succ k hnk ih => rw [schedLoop, schedWord_schedPass _ _ (by omega), if_neg (by omega), ih (by omega)]

/-- Each pass's equation still holds after the last pass. -/
theorem schedWord_schedLoop {n : Nat} (hn : n < 48) :
    schedWord (schedLoop w 48) (16 + n) = schedNext (schedLoop w 48) (16 + n) := by
  calc schedWord (schedLoop w 48) (16 + n)
      = schedWord (schedLoop w (n + 1)) (16 + n) := schedWord_schedLoop_of_lt w hn le_rfl (by omega)
    _ = schedNext (schedLoop w n) (16 + n) := by rw [schedLoop, schedWord_schedPass _ _ (by omega), if_pos rfl]
    _ = schedNext (schedLoop w 48) (16 + n) :=
        schedNext_congr (by omega) fun _ hu => (schedWord_schedLoop_of_lt w hn.le le_rfl hu).symm

end

/-! ### The finished schedule (R90) -/

section
variable (m : Vector Byte 64) {t : Nat}

theorem getElem_schedule_of_lt (ht : t < 16) :
    (schedule m)[t] = beWord m[4 * t] m[4 * t + 1] m[4 * t + 2] m[4 * t + 3] := by
  rw [← schedWord_of_lt, schedule, schedWord_schedLoop_of_lt _ (Nat.zero_le 48) le_rfl ht, schedLoop,
    schedWord_of_lt _ t (by omega), getElem_schedStart, dif_pos ht]

theorem schedWord_schedule (hle : 16 ≤ t) (hlt : t < 64) : schedWord (schedule m) t = schedNext (schedule m) t := by
  obtain ⟨n, rfl⟩ := Nat.exists_eq_add_of_le hle
  unfold schedule
  exact schedWord_schedLoop _ (by omega)

end

/-! ### The command (R91) -/

theorem exec_shaSched {s : State} {m : Vector Byte 64} (hm : s.mblk = written m) :
    exec .shaSched s = .next { s with w := written (schedule m), engine := .idle, done := true } := by
  rw [exec, execShaSched, (mblkBytes_eq_some s m).2 hm, completeWith_some, putW, retire]

end Sys2Proof.Machine

open Sys2Proof Sys2Proof.Machine

/-- Settles O27: the first loop gives the words of the block, and the equation of a pass is the recurrence. -/
theorem scheduleRecurrence : Obligations.ScheduleRecurrence := by
  unfold Obligations.ScheduleRecurrence
  intro s m hm
  refine ⟨schedule m, exec_shaSched hm, fun t => getElem_schedule_of_lt m t.isLt, ?_⟩
  intro t hle hlt x y
  rw [schedWord_schedule m hle hlt, schedNext, smallSigma0_eq, smallSigma1_eq]
end

section
/-! The compression's statements (44_sha_compression.md): the constants against the exact roots of their primes (R94 to R96),
SHA_INIT (R99), the rounds and the feed-forward (R97, R98), and SHA_BLOCK as SHA_SCHED followed by SHA_COMP (R101). -/

namespace Sys2Proof.Machine

/-! ### The constants (R94 to R96) -/

/-- `x` is the fraction, in 32 bits, of an `e`-th root of `n` whose part above those bits is below `m`. -/
abbrev IsRootFraction (e m n : Nat) (x : Word) : Prop :=
  ∃ k, k < m ∧ (k * 2 ^ 32 + x.toNat) ^ e ≤ n ∧ n < (k * 2 ^ 32 + x.toNat + 1) ^ e

/-- The fraction is what the root leaves modulo 2^32. -/
theorem IsRootFraction.exists_root {e m n : Nat} {x : Word} (h : IsRootFraction e m n x) :
    ∃ c : Nat, c ^ e ≤ n ∧ n < (c + 1) ^ e ∧ x = BitVec.ofNat 32 c := by
  obtain ⟨k, -, hle, hlt⟩ := h
  refine ⟨k * 2 ^ 32 + x.toNat, hle, hlt, BitVec.eq_of_toNat_eq ?_⟩
  rw [BitVec.toNat_ofNat, Nat.mul_add_mod_self_right, Nat.mod_eq_of_lt x.isLt]

theorem iv_eq :
    iv = #v[0x6a09e667, 0xbb67ae85, 0x3c6ef372, 0xa54ff53a, 0x510e527f, 0x9b05688c, 0x1f83d9ab, 0x5be0cd19] := by
  refine Vector.ext fun j hj => ?_
  rw [getElem_iv]
  revert j
  decide

/-! ### The round (R93, R97) -/

theorem bigSigma0_eq (x : Word) : bigSigma0 x = x.rotateRight 2 ^^^ x.rotateRight 13 ^^^ x.rotateRight 22 := by
  rw [bigSigma0, rotr_eq_rotateRight x (by decide), rotr_eq_rotateRight x (by decide), rotr_eq_rotateRight x (by decide)]

theorem bigSigma1_eq (x : Word) : bigSigma1 x = x.rotateRight 6 ^^^ x.rotateRight 11 ^^^ x.rotateRight 25 := by
  rw [bigSigma1, rotr_eq_rotateRight x (by decide), rotr_eq_rotateRight x (by decide), rotr_eq_rotateRight x (by decide)]

/-! ### The commands (R99 to R101) -/

theorem exec_shaInit (s : State) : exec .shaInit s = .next (retire (putH iv s)) := rfl

section
variable {s : State} {h : Vector Word 8}

/-- The state after a hash command that left `v` in H. -/
theorem retire_putH (v : Vector Word 8) (s : State) :
    retire (putH v s) = { s with h := written v, engine := .idle, done := true } := rfl

theorem exec_shaComp {w : Vector Word 64} (hh : s.h = written h) (hw : s.w = written w) :
    exec .shaComp s = .next (retire (putH (compress h w) s)) := by
  rw [exec, execShaComp, (bothWritten_eq_some _ _ h w).2 ⟨(hWords_eq_some s h).2 hh, (wWords_eq_some s w).2 hw⟩,
    completeWith_some]

theorem exec_shaBlock {m : Vector Byte 64} (hh : s.h = written h) (hm : s.mblk = written m) :
    exec .shaBlock s = .next (retire (putH (compress h (schedule m)) (putW (schedule m) s))) := by
  rw [exec, execShaBlock, (bothWritten_eq_some _ _ h m).2 ⟨(hWords_eq_some s h).2 hh, (mblkBytes_eq_some s m).2 hm⟩,
    completeWith_some]

end

end Sys2Proof.Machine

open Sys2Proof Sys2Proof.Machine

/-- Settles O28: the registers before round `t` are those after the first `t` rounds, and each round is the rule's once its
rotations are written as such. -/
theorem compressionRounds : Obligations.CompressionRounds := by
  unfold Obligations.CompressionRounds
  intro s h w hh hw
  refine ⟨shaRounds w (loadRegs h), rfl, fun t _ => ?round, ?result⟩
  case round =>
    intro p t1 t2
    rw [shaRounds, shaRound, bigSigma0_eq, bigSigma1_eq, ch, maj]
  case result => rw [exec_shaComp hh hw, retire_putH, compress, addBack]

/-- Settles O29: SHA_SCHED leaves H as it stands, so SHA_COMP then reads the H that SHA_BLOCK reads and the finished
schedule. -/
theorem blockIsScheduleThenCompression : Obligations.BlockIsScheduleThenCompression := by
  unfold Obligations.BlockIsScheduleThenCompression
  intro s ⟨hWritten, mblkWritten⟩
  obtain ⟨h, hh⟩ := (hWords_exists s).2 hWritten
  obtain ⟨m, hm⟩ := (mblkBytes_exists s).2 mblkWritten
  rw [hWords_eq_some] at hh
  rw [mblkBytes_eq_some] at hm
  have hcomp : exec .shaComp (retire (putW (schedule m) s)) =
      .next (retire (putH (compress h (schedule m)) (retire (putW (schedule m) s)))) := exec_shaComp hh rfl
  refine ⟨_, exec_shaBlock hh hm, ?_⟩
  calc execAll [.shaSched, .shaComp] s
      = execAll [.shaComp] (retire (putW (schedule m) s)) := execAll_cons_of_next (exec_shaSched hm) _
    _ = .next (retire (putH (compress h (schedule m)) (putW (schedule m) s))) := execAll_cons_of_next hcomp []

/-- Settles O25: each table entry is the fraction of its prime's root, and the integer part of the root is below 7 for the
cube roots and below 5 for the square roots. -/
theorem shaConstantsAreRootsOfPrimes : Obligations.ShaConstantsAreRootsOfPrimes := by
  unfold Obligations.ShaConstantsAreRootsOfPrimes
  intro primes
  have cubeRoots : ∀ t, t < 64 → IsRootFraction 3 7 (primes.getD t 0 * 2 ^ 96) (kRom t) := by decide +zetaReduce
  have squareRoots : ∀ j, j < 8 → IsRootFraction 2 5 (primes.getD j 0 * 2 ^ 64) (ivRom j) := by decide +zetaReduce
  exact ⟨fun t ht => (cubeRoots t ht).exists_root, fun j hj => (squareRoots j hj).exists_root⟩

/-- Settles O26: the words of the IV table are the rule's. -/
theorem shaInitLoadsTheInitialHash : Obligations.ShaInitLoadsTheInitialHash := by
  unfold Obligations.ShaInitLoadsTheInitialHash
  intro s
  rw [exec_shaInit, retire_putH, iv_eq]
end

section
/-! The control statements (45_control_commands.md): NOP (R104), and what writes of CTRL (R105 to R107) and STATUS (R108) do. -/

namespace Sys2Proof.Machine

/-! ### NOP (R104) -/

theorem exec_nop (s : State) : exec .nop s = .next (retire s) := rfl

/-! ### Writes of CTRL and STATUS -/

section
variable {s : State} {v : Word} {rest : List PortEvent}

theorem step_of_ctrl_write (h : s.env = .write 2 v :: rest) :
    step s = .next (writeCtrl v { s with env := rest, rdata := none, draws := s.draws + 1 }) := by
  rw [step_of_write h, hostWrite, (regionOf_ctrl 2).2 rfl]

theorem step_of_status_write (h : s.env = .write 1 v :: rest) :
    step s = .next (writeStatus v { s with env := rest, rdata := none, draws := s.draws + 1 }) := by
  rw [step_of_write h, hostWrite, (regionOf_status 1).2 rfl]

/-- SRST is a reset whatever the other bits (R107). -/
theorem writeCtrl_of_srst (hsrst : v.getLsbD 2 = true) (s : State) : writeCtrl v s = resetCore s := if_pos hsrst

/-- CLR_ERR without SRST clears the error and writes IE (R105, R106). -/
theorem writeCtrl_of_clrErr (hsrst : v.getLsbD 2 = false) (hclr : v.getLsbD 1 = true) (s : State) :
    writeCtrl v s = { s with errcode := .noError, errcmd := 0, ie := v.getLsbD 0 } := by
  rw [writeCtrl, if_neg (ne_true_of_eq_false hsrst), if_pos hclr, clearError]

/-- Without SRST and CLR_ERR only IE is written (R105). -/
theorem writeCtrl_of_no_action (hsrst : v.getLsbD 2 = false) (hclr : v.getLsbD 1 = false) (s : State) :
    writeCtrl v s = { s with ie := v.getLsbD 0 } := by
  rw [writeCtrl, if_neg (ne_true_of_eq_false hsrst), if_neg (ne_true_of_eq_false hclr)]

/-- DONE is cleared by writing 1 to it (R108). -/
theorem writeStatus_of_done (hdone : v.getLsbD 1 = true) (s : State) : writeStatus v s = { s with done := false } :=
  if_pos hdone

theorem writeStatus_of_not_done (hdone : v.getLsbD 1 = false) (s : State) : writeStatus v s = s :=
  if_neg (ne_true_of_eq_false hdone)

/-- A reset leaves no read data where there was none, as at the reset state. -/
theorem resetCore_of_no_rdata (h : s.rdata = none) :
    resetCore s = { State.reset with env := s.env, draws := s.draws, unwritten := s.unwritten } := by
  rw [resetCore, h]
  rfl

end

end Sys2Proof.Machine

open Sys2Proof Sys2Proof.Machine

/-- Settles O30: NOP has no effect before its retirement. -/
theorem nopOnlyCompletes : Obligations.NopOnlyCompletes := by
  unfold Obligations.NopOnlyCompletes
  intro s
  rw [exec_nop, retire]

/-- Settles O40: the write is met by the three actions in their order, SRST, CLR_ERR and IE alone. -/
theorem ctrlWriteActions : Obligations.CtrlWriteActions := by
  unfold Obligations.CtrlWriteActions
  intro s v rest henv
  rw [step_of_ctrl_write henv]
  refine ⟨fun hsrst => ?srst, fun hsrst hclr => ?clrErr, fun hsrst hclr => ?ieAlone⟩
  case srst => rw [writeCtrl_of_srst hsrst, resetCore_of_no_rdata rfl]
  case clrErr => rw [writeCtrl_of_clrErr hsrst hclr]
  case ieAlone => rw [writeCtrl_of_no_action hsrst hclr]

/-- Settles O41: DONE is the one bit of STATUS that a write acts on. -/
theorem statusWriteClearsDone : Obligations.StatusWriteClearsDone := by
  unfold Obligations.StatusWriteClearsDone
  intro s v rest henv
  rw [step_of_status_write henv]
  exact ⟨fun hdone => by rw [writeStatus_of_done hdone], fun hdone => by rw [writeStatus_of_not_done hdone]⟩
end

section
/-! The host procedures' own statements (46_host_procedures.md): the padding of a message (R113), its final blocks (R117), and
the loop of `extend` on a message that comes in two chunks (R116, R118). -/

namespace Sys2Proof.Machine

/-! ### The padding (R113) -/

/-- The number of zero bytes that follow 0x80 in `pad_448`, for a message of `l` bytes: R113's (55 - l) mod 64. -/
def padZeros (l : Nat) : Nat := (55 + 64 - l % 64) % 64

theorem pad448_eq_append (msg : List Byte) : pad448 msg = msg ++ [0x80] ++ List.replicate (padZeros msg.length) 0 := by
  rw [pad448, padZeros, List.append_assoc, List.singleton_append]

theorem length_pad448 (msg : List Byte) : (pad448 msg).length = msg.length + 1 + padZeros msg.length := by
  rw [pad448_eq_append, List.length_append, List.length_append, List.length_singleton, List.length_replicate]

theorem padZeros_lt (l : Nat) : padZeros l < 64 := Nat.mod_lt _ (by decide)

theorem add_padZeros_mod (l : Nat) : (l + 1 + padZeros l) % 64 = 56 := by
  unfold padZeros
  omega

/-- A run of fewer than 64 zero bytes is the remainder by 64 of every run that reaches 56. -/
theorem padZeros_le {l y : Nat} (h : (l + 1 + y) % 64 = 56) : padZeros l ≤ y := by
  have hmod : padZeros l = y % 64 := by
    have := add_padZeros_mod l
    have := padZeros_lt l
    omega
  exact hmod ▸ Nat.mod_le y 64

/-! ### The final blocks (R117) -/

theorem length_be64 (x : Nat) : (be64 x).length = 8 := rfl

theorem length_flushTail (hs : Hasher) : (flushTail hs).length = hs.buf.length + 1 + padZeros hs.buf.length + 8 := by
  rw [flushTail, List.length_append, length_pad448, length_be64]

/-- With less than a block pending, the zero bytes fill up the first block, or where 0x80 and the length field do not fit in
it, the second. -/
theorem padZeros_of_lt {l : Nat} (h : l < 64) : padZeros l = if l ≤ 55 then 55 - l else 119 - l := by
  unfold padZeros
  split <;> omega

/-! ### The loop of `extend` (R116) -/

section
variable (how : Waiting) {fuel : Nat} {buf : List Byte}

theorem fullBlocks_of_lt (fuel : Nat) (h : buf.length < 64) : fullBlocks how fuel buf = (buf, []) := by
  cases fuel with
  | zero => rfl
  | succ fuel => exact if_neg (Nat.not_le.mpr h)

theorem fullBlocks_succ_of_le (fuel : Nat) (h : 64 ≤ buf.length) :
    fullBlocks how (fuel + 1) buf =
      ((fullBlocks how fuel (buf.drop 64)).1, blockLines how (buf.take 64) ++ (fullBlocks how fuel (buf.drop 64)).2) :=
  if_pos h

/-- A pass takes at least one byte, so the passes that were enough for the buffer leave enough for the rest. -/
theorem length_drop_block_le (h : buf.length ≤ fuel + 1) : (buf.drop 64).length ≤ fuel := by
  rw [List.length_drop]
  omega

/-- With as many passes as bytes the loop ends because less than a block is left. -/
theorem length_fullBlocks_fst_lt (h : buf.length ≤ fuel) : (fullBlocks how fuel buf).1.length < 64 := by
  induction fuel generalizing buf with
  | zero => exact Nat.lt_of_le_of_lt h (by decide)
  | succ fuel ih =>
    by_cases hblock : 64 ≤ buf.length
    · rw [fullBlocks_succ_of_le how fuel hblock]
      exact ih (length_drop_block_le h)
    · rw [fullBlocks_of_lt how _ (Nat.lt_of_not_le hblock)]
      exact Nat.lt_of_not_le hblock

/-- More passes than bytes change nothing. -/
theorem fullBlocks_of_length_le (h : buf.length ≤ fuel) {fuel' : Nat} (h' : buf.length ≤ fuel') :
    fullBlocks how fuel buf = fullBlocks how fuel' buf := by
  induction fuel generalizing buf fuel' with
  | zero =>
    have hlt : buf.length < 64 := Nat.lt_of_le_of_lt h (by decide)
    rw [fullBlocks_of_lt how _ hlt, fullBlocks_of_lt how _ hlt]
  | succ fuel ih =>
    by_cases hblock : 64 ≤ buf.length
    · obtain ⟨k, rfl⟩ := Nat.exists_eq_add_of_le' (show 1 ≤ fuel' by omega)
      rw [fullBlocks_succ_of_le how _ hblock, fullBlocks_succ_of_le how _ hblock,
        ih (length_drop_block_le h) (length_drop_block_le h')]
    · rw [fullBlocks_of_lt how _ (Nat.lt_of_not_le hblock), fullBlocks_of_lt how _ (Nat.lt_of_not_le hblock)]

/-- The loop on a concatenation does the first part's blocks, and goes on with what that part left pending before the second:
a block that lies whole in the first part is taken from it alone. -/
theorem fullBlocks_append (x y : List Byte) {fuel₁ fuel₂ : Nat} (h : (x ++ y).length ≤ fuel) (h₁ : x.length ≤ fuel₁)
    (h₂ : ((fullBlocks how fuel₁ x).1 ++ y).length ≤ fuel₂) :
    fullBlocks how fuel (x ++ y) =
      ((fullBlocks how fuel₂ ((fullBlocks how fuel₁ x).1 ++ y)).1,
        (fullBlocks how fuel₁ x).2 ++ (fullBlocks how fuel₂ ((fullBlocks how fuel₁ x).1 ++ y)).2) := by
  induction fuel₁ generalizing x fuel with
  | zero => exact fullBlocks_of_length_le how h h₂
  | succ fuel₁ ih =>
    by_cases hblock : 64 ≤ x.length
    · have hxy : 64 ≤ (x ++ y).length := by rw [List.length_append]; omega
      obtain ⟨k, rfl⟩ := Nat.exists_eq_add_of_le' (show 1 ≤ fuel by omega)
      have hk : (x.drop 64 ++ y).length ≤ k := List.drop_append_of_le_length hblock ▸ length_drop_block_le h
      rw [fullBlocks_succ_of_le how _ hblock] at h₂ ⊢
      rw [fullBlocks_succ_of_le how _ hxy, List.take_append_of_le_length hblock, List.drop_append_of_le_length hblock,
        ih _ hk (length_drop_block_le h₁) h₂, List.append_assoc]
    · rw [fullBlocks_of_lt how _ (Nat.lt_of_not_le hblock)] at h₂ ⊢
      exact fullBlocks_of_length_le how h h₂

theorem hasherExtend_append (hs : Hasher) (x y : List Byte) :
    hasherExtend how hs (x ++ y) =
      ((hasherExtend how (hasherExtend how hs x).1 y).1,
        (hasherExtend how hs x).2 ++ (hasherExtend how (hasherExtend how hs x).1 y).2) := by
  have hbuf := fullBlocks_append how (hs.buf ++ x) y le_rfl le_rfl le_rfl
  have htotal : hs.total + (x ++ y).length = hs.total + x.length + y.length := by
    rw [List.length_append, Nat.add_assoc]
  simp only [hasherExtend, ← List.append_assoc, hbuf, htotal]

theorem length_hasherExtend_buf_lt (hs : Hasher) (bytes : List Byte) : (hasherExtend how hs bytes).1.buf.length < 64 :=
  length_fullBlocks_fst_lt how le_rfl

end

end Sys2Proof.Machine

open Sys2Proof Sys2Proof.Machine

/-- Settles O58: the run of `pad_448` is below 64, so it is the least of the runs in its residue class. -/
theorem paddingReachesFiftySix : Obligations.PaddingReachesFiftySix := by
  unfold Obligations.PaddingReachesFiftySix
  intro msg
  refine ⟨?residue, padZeros msg.length, padZeros_lt _, pad448_eq_append msg, fun y => padZeros_le⟩
  case residue => rw [length_pad448, add_padZeros_mod]

/-- Settles O59: the pending bytes, 0x80 and the length field are filled up to one block or to two. -/
theorem flushTailIsOneOrTwoBlocks : Obligations.FlushTailIsOneOrTwoBlocks := by
  unfold Obligations.FlushTailIsOneOrTwoBlocks
  intro hs hlt
  rw [length_flushTail, padZeros_of_lt hlt]
  split <;> omega

/-- Settles O60: the loop of `extend` on the concatenation is the loop on the first chunk, then on its tail before the
second. -/
theorem extendIsIndependentOfTheSplit : Obligations.ExtendIsIndependentOfTheSplit := by
  unfold Obligations.ExtendIsIndependentOfTheSplit
  intro how hs x y
  exact ⟨hasherExtend_append how hs x y, length_hasherExtend_buf_lt how hs x⟩
end

section
/-! The statements about errors and completion (60_exceptions.md): the checks of Issue (R121, R122), the engine's turn (R123),
what a rejected, an accepted and an unwritten operand come to (R124, R125, R129), the order of an acknowledge and a completion
(R131), and the consistency that every step keeps (R120). -/

namespace Sys2Proof.Machine

/-! ### Execution of the commands that Issue rejects (R124) -/

section
variable {i : Instr}

theorem exec_gfInv_zero (s : State) : exec (.gfInv 0) s = .next (raiseError .divZero 0x00000002 s) := rfl

/-- AES_ARK, AES_RND and AES_LAST are round commands (R80, R84, R85). -/
theorem exec_eq_roundCommand {n : Byte} (h : i ∈ [.aesArk n, .aesRnd n, .aesLast n]) :
    ∃ f, ∀ s, exec i s = roundCommand i n f s := by
  simp only [List.mem_cons, List.not_mem_nil, or_false] at h
  obtain rfl | rfl | rfl := h
  · exact ⟨addRoundKey, fun _ => rfl⟩
  · exact ⟨fullRound, fun _ => rfl⟩
  · exact ⟨lastRound, fun _ => rfl⟩

theorem exec_of_index_gt {n : Byte} (hn : 14 < n.toNat) (h : i ∈ [.aesArk n, .aesRnd n, .aesLast n]) (s : State) :
    exec i s = .next (raiseError .badOperand (encode i) s) := by
  obtain ⟨f, hf⟩ := exec_eq_roundCommand h
  rw [hf, roundCommand, withRoundIndex_of_gt _ _ _ _ hn]

/-- What is not well formed is a round command with an index above 14 (R49). -/
theorem exists_index_gt_of_not_wellFormed (h : i.wellFormed ≠ true) :
    ∃ n : Byte, 14 < n.toNat ∧ i ∈ [.aesArk n, .aesRnd n, .aesLast n] := by
  cases i with
  | aesArk n | aesRnd n | aesLast n => exact ⟨n, by simpa [Instr.wellFormed] using h, by simp⟩
  | _ => exact absurd rfl h

end

/-! ### A completion and the error recorded (R123, R125) -/

/-- The state with another error recorded. -/
def withError (code : ErrCode) (info : Word) (s : State) : State := { s with errcode := code, errcmd := info }

section
variable {i : Instr} {s t : State} (code : ErrCode) (info : Word)

@[simp] theorem rawKey_withError : (withError code info s).rawKey = s.rawKey := rfl
@[simp] theorem roundKey_withError (r : Fin 15) : (withError code info s).roundKey r = s.roundKey r := rfl
@[simp] theorem keyBytes_withError : (withError code info s).keyBytes = s.keyBytes := rfl
@[simp] theorem stBytes_withError : (withError code info s).stBytes = s.stBytes := rfl
@[simp] theorem mblkBytes_withError : (withError code info s).mblkBytes = s.mblkBytes := rfl
@[simp] theorem hWords_withError : (withError code info s).hWords = s.hWords := rfl
@[simp] theorem wWords_withError : (withError code info s).wWords = s.wWords := rfl

/-- A completion whose effects do not look at the error does not, either. -/
theorem completeWith_withError {α : Type} {operands : Option α} {effect : α → State → State} {anyEffect : State → State}
    (h : completeWith operands effect anyEffect s = .next t)
    (heffect : ∀ x, effect x (withError code info s) = withError code info (effect x s))
    (hany : anyEffect (withError code info s) = withError code info (anyEffect s)) :
    completeWith operands effect anyEffect (withError code info s) = .next (withError code info t) := by
  obtain ⟨x, rfl, rfl⟩ | ⟨rfl, hu, rfl⟩ := completeWith_cases _ _ _ _ h
  · rw [completeWith_some, heffect]
    rfl
  · rw [completeWith_none_drawAny _ _ (withError code info s) hu, hany]
    rfl

theorem stateCommand_withError {f : Vector Byte 16 → Vector Byte 16} (h : stateCommand f s = .next t) :
    stateCommand f (withError code info s) = .next (withError code info t) := by
  rw [stateCommand] at h ⊢
  rw [stBytes_withError]
  exact completeWith_withError code info h (fun _ => rfl) rfl

theorem roundCommand_withError {n : Byte} {f : Vector Byte 16 → Vector Byte 16 → Vector Byte 16} (hn : n.toNat ≤ 14)
    (h : roundCommand i n f s = .next t) :
    roundCommand i n f (withError code info s) = .next (withError code info t) := by
  rw [roundCommand, withRoundIndex_of_le _ _ _ _ hn] at h ⊢
  rw [roundKey_withError, stBytes_withError]
  exact completeWith_withError code info h (fun _ => rfl) rfl

/-- With another error recorded an accepted command completes the same way: no operand is the error. -/
theorem exec_withError (hwf : i.wellFormed = true) (hi : i ≠ .gfInv 0) (h : exec i s = .next t) :
    exec i (withError code info s) = .next (withError code info t) := by
  cases i with
  | nop | gfMul | gfSbox | shaInit =>
    cases h
    rfl
  | gfInv a =>
    have ha : a ≠ 0 := fun h => hi (by rw [h])
    rw [exec_gfInv_of_ne_zero ha] at h ⊢
    cases h
    rfl
  | aesArk n | aesRnd n | aesLast n =>
    have hn : n.toNat ≤ 14 := by simpa [Instr.wellFormed] using hwf
    exact roundCommand_withError code info hn h
  | aesSub | aesShr | aesMix => exact stateCommand_withError code info h
  | aesKeyexp | aesEnc | shaSched | shaComp | shaBlock =>
    simp only [exec, execAesKeyexp, execAesEnc, execShaSched, execShaComp, execShaBlock, rawKey_withError,
      keyBytes_withError, stBytes_withError, mblkBytes_withError, hWords_withError, wWords_withError] at h ⊢
    exact completeWith_withError code info h (fun _ => rfl) rfl

end

/-! ### Issue (R121, R122) -/

section
variable {s : State} {word : Word} {rest : List PortEvent}

theorem step_of_cmd_write (h : s.env = .write 0 word :: rest) :
    step s = .next (issue word { s with env := rest, rdata := none, draws := s.draws + 1 }) := by
  rw [step_of_write h, hostWrite, (regionOf_cmd 0).2 rfl]

theorem invertsZero_eq_false {i : Instr} (hi : i ≠ .gfInv 0) : invertsZero i = false := beq_false_of_ne hi

theorem issue_of_error (herr : s.errcode ≠ .noError) : issue word s = s := if_pos ((fault_eq_true s).2 herr)

theorem issue_of_busy (herr : s.errcode = .noError) (hengine : s.engine ≠ .idle) :
    issue word s = { s with errcode := .busyCmd, errcmd := word } := by
  rw [issue, if_neg, if_pos (busy_of_ne_idle hengine), raiseError_of_noError _ _ _ herr]
  simp [State.fault, herr]

section
variable (herr : s.errcode = .noError) (hidle : s.engine = .idle)
include herr hidle

theorem issue_of_badOpcode (h : decode word = .badOpcode) :
    issue word s = { s with errcode := .badOpcode, errcmd := word } := by
  simp [issue, State.fault, herr, (busy_eq_false s).2 hidle, h, raiseError_of_noError]

theorem issue_of_badOperand (h : decode word = .badOperand) :
    issue word s = { s with errcode := .badOperand, errcmd := word } := by
  simp [issue, State.fault, herr, (busy_eq_false s).2 hidle, h, raiseError_of_noError]

theorem issue_of_gfInv_zero (h : decode word = .ok (.gfInv 0)) :
    issue word s = { s with errcode := .divZero, errcmd := word } := by
  simp [issue, State.fault, herr, (busy_eq_false s).2 hidle, h, invertsZero, raiseError_of_noError]

theorem issue_of_accepted {i : Instr} (h : decode word = .ok i) (hi : i ≠ .gfInv 0) :
    issue word s = accept word i s := by
  simp [issue, State.fault, herr, (busy_eq_false s).2 hidle, h, invertsZero_eq_false hi]

end

/-- A write of a word that Issue accepts (R122). -/
theorem step_of_accepted_write {i : Instr} (henv : s.env = .write 0 word :: rest) (herr : s.errcode = .noError)
    (hidle : s.engine = .idle) (hword : decode word = .ok i) (hi : i ≠ .gfInv 0) :
    step s = .next (accept word i { s with env := rest, rdata := none, draws := s.draws + 1 }) := by
  rw [step_of_cmd_write henv, issue_of_accepted _ _ hword hi]
  · exact herr
  · exact hidle

end

/-! ### The engine's turn (R123) -/

section
variable {s : State} {rest : List PortEvent}

theorem step_of_engine_turn (h : s.env = .engine :: rest ∨ s.env = [] ∧ rest = []) :
    step s = engineTurn (takeEvent rest s) := by
  obtain h | ⟨h, rfl⟩ := h
  · exact step_of_cons h
  · exact step_of_nil h

theorem engineTurn_of_idle (h : s.engine = .idle) : engineTurn s = .next s := by simp only [engineTurn, h]

/-- The pending command runs on the state as it stands, with the engine's turn counted. -/
theorem step_of_engine_turn_busy {i : Instr} (h : s.env = .engine :: rest ∨ s.env = [] ∧ rest = [])
    (hi : s.engine = .busy i) : step s = exec i { s with env := rest, rdata := none, draws := s.draws + 1 } :=
  (step_of_engine_turn h).trans (engineTurn_of_busy hi)

/-- The state that holds a placed word of an accepted command (log entry 5). -/
theorem withFetchWord_of_accepted {word : Word} {i : Instr} (h : decode word = .ok i) (hi : i ≠ .gfInv 0) (s : State) :
    s.withFetchWord 32 word.toNat =
      { accept word i s with env := .engine :: s.env, unwritten := .drawAny } := by
  have hword : BitVec.ofNat 32 (word.toNat % 2 ^ 32) = word := by
    rw [Nat.mod_eq_of_lt word.isLt, BitVec.ofNat_toNat, BitVec.setWidth_eq]
  rw [State.withFetchWord, hword]
  simp [placeWord, h, invertsZero_eq_false hi]

end

/-! ### The treatment of unwritten elements (R129) -/

section
variable {s t : State}

theorem WritesOutputs.unwritten {i : Instr} {u : State} (h : WritesOutputs s i u) : u.unwritten = s.unwritten := by
  cases h <;> rfl

theorem unwritten_of_exec {i : Instr} (h : exec i s = .next t) : t.unwritten = s.unwritten := by
  by_cases hwf : i.wellFormed = true
  · by_cases hi : i = .gfInv 0
    · rw [hi, exec_gfInv_zero] at h
      cases h
      exact raiseError_unwritten ..
    · obtain ⟨u, n, hu, rfl⟩ := exec_writesOutputs hwf hi h
      exact hu.unwritten
  · obtain ⟨n, hn, hmem⟩ := exists_index_gt_of_not_wellFormed hwf
    rw [exec_of_index_gt hn hmem] at h
    cases h
    exact raiseError_unwritten ..

theorem issue_unwritten (word : Word) (s : State) : (issue word s).unwritten = s.unwritten := by
  obtain ⟨-, h⟩ | ⟨-, -, h⟩ | ⟨-, -, ⟨-, h⟩ | ⟨-, h⟩ | ⟨-, h⟩ | ⟨i, -, -, h⟩⟩ := issue_cases word s <;> rw [h]
  rfl

theorem writeCtrl_unwritten (v : Word) (s : State) : (writeCtrl v s).unwritten = s.unwritten := by
  unfold writeCtrl
  split_ifs <;> rfl

theorem writeData_unwritten (a : PortAddr) (v : Word) (s : State) : (writeData a v s).unwritten = s.unwritten := by
  unfold writeData
  split_ifs
  · exact raiseError_unwritten ..
  · rw [storeData_frame]

theorem hostWrite_unwritten (a : PortAddr) (v : Word) (s : State) : (hostWrite a v s).unwritten = s.unwritten := by
  obtain ⟨-, h⟩ | ⟨-, h⟩ | ⟨-, h⟩ | ⟨-, h⟩ | ⟨-, h⟩ := hostWrite_cases a v s <;> rw [h]
  · exact issue_unwritten v s
  · exact (keepsPending_writeStatus v s).unwritten
  · exact writeCtrl_unwritten v s
  · exact writeData_unwritten a v s

/-- No step changes what a use of an unwritten element does (log entry 2). -/
theorem unwritten_of_step (h : step s = .next t) : t.unwritten = s.unwritten := by
  obtain ⟨rest, ⟨-, rfl⟩ | ⟨i, -, hexec⟩ | ⟨a, -, hread⟩ | ⟨a, v, -, rfl⟩ | ⟨-, rfl⟩⟩ := step_cases h
  · rfl
  · simpa using unwritten_of_exec hexec
  · obtain ⟨v, rfl⟩ | ⟨-, rfl⟩ := hostRead_next hread <;> rfl
  · exact hostWrite_unwritten ..
  · rfl

/-- Where unwritten elements are reported, a completion stops exactly on an unwritten operand. -/
theorem exec_fault_iff_not_operandsWritten {i : Instr} (hwf : i.wellFormed = true) (hu : s.unwritten = .report) :
    exec i s = .fault .unwrittenOperand ↔ ¬operandsWritten i s := by
  by_cases hi : i = .gfInv 0
  · rw [hi, exec_gfInv_zero]
    simp [operandsWritten]
  · obtain ⟨α, operands, effect, hexec, hop, -⟩ := exec_isCompletion s hwf hi
    rw [hexec, ← hop]
    cases operands with
    | some x => simp
    | none => simp [completeWith_none_report _ _ _ hu]

end

/-! ### Consistency: the operations keep it -/

section
variable {s t : State}

theorem reset_consistent : State.reset.Consistent where
  lastcmd_accepted := ⟨.nop, by decide, by decide⟩
  pending_is_lastcmd _ h := nomatch h
  error_info := rfl
  h_written := by simp [State.reset]

theorem consistent_takeEvent (hs : s.Consistent) (rest : List PortEvent) : (takeEvent rest s).Consistent := { hs with }

theorem consistent_newChoice (hs : s.Consistent) : (newChoice s).Consistent := { hs with }

theorem consistent_resetCore (s : State) : (resetCore s).Consistent := { reset_consistent with }

theorem consistent_retire (hs : s.Consistent) : (retire s).Consistent :=
  { hs with pending_is_lastcmd := fun _ h => nomatch h }

theorem consistent_withError (hs : s.Consistent) {code : ErrCode} {info : Word} (h : errInfoMatches code info) :
    (withError code info s).Consistent :=
  { hs with error_info := h }

theorem consistent_raiseError (hs : s.Consistent) {code : ErrCode} {info : Word} (h : errInfoMatches code info) :
    (raiseError code info s).Consistent := by
  obtain ⟨-, heq⟩ | ⟨-, heq⟩ := raiseError_cases code info s <;> rw [heq]
  · exact consistent_withError hs h
  · exact hs

theorem consistent_accept (hs : s.Consistent) {word : Word} {i : Instr} (hword : decode word = .ok i)
    (hi : i ≠ .gfInv 0) : (accept word i s).Consistent where
  lastcmd_accepted := ⟨i, hword, hi⟩
  pending_is_lastcmd j hj := by
    cases hj
    exact ⟨hword, rfl⟩
  error_info := hs.error_info
  h_written := hs.h_written

/-- An accepted word is pending, and a rejected one is what its error names (R120, R121). -/
theorem consistent_issue (hs : s.Consistent) (word : Word) : (issue word s).Consistent := by
  obtain ⟨-, h⟩ | ⟨-, -, h⟩ | ⟨-, -, ⟨hd, h⟩ | ⟨hd, h⟩ | ⟨hd, h⟩ | ⟨i, hd, hi, h⟩⟩ := issue_cases word s <;> rw [h]
  · exact hs
  · exact consistent_withError hs (code := .busyCmd) trivial
  · exact consistent_withError hs (code := .badOpcode) hd
  · exact consistent_withError hs (code := .badOperand) hd
  · exact consistent_withError hs (code := .divZero) (encode_of_decode hd).symm
  · exact consistent_accept hs hd hi

theorem consistent_writeStatus (hs : s.Consistent) (v : Word) : (writeStatus v s).Consistent := by
  unfold writeStatus
  split_ifs
  · exact { hs with pending_is_lastcmd := fun i hi => ⟨(hs.pending_is_lastcmd i hi).1, rfl⟩ }
  · exact hs

theorem consistent_writeCtrl (hs : s.Consistent) (v : Word) : (writeCtrl v s).Consistent := by
  unfold writeCtrl
  split_ifs
  · exact consistent_resetCore s
  · exact { hs with error_info := rfl }
  · exact { hs with }

/-- A stored data word is a written one, also in H (R25). -/
theorem consistent_storeData (hs : s.Consistent) (r : Region) (v : Word) : (storeData r v s).Consistent := by
  cases r with
  | h j =>
    refine { hs with h_written := fun k => ?_ }
    have hk := hs.h_written k
    simp only [storeData, Fin.getElem_fin, getElem_putWord] at hk ⊢
    split_ifs
    · rfl
    · exact hk
  | _ => exact { hs with }

theorem consistent_writeData (hs : s.Consistent) {a : PortAddr} (ha : (regionOf a).isData = true) (v : Word) :
    (writeData a v s).Consistent := by
  unfold writeData
  split_ifs
  · exact consistent_raiseError hs (code := .busyWrite) ⟨a, ha, rfl⟩
  · exact consistent_storeData hs _ v

theorem consistent_hostWrite (hs : s.Consistent) (a : PortAddr) (v : Word) : (hostWrite a v s).Consistent := by
  obtain ⟨-, h⟩ | ⟨-, h⟩ | ⟨-, h⟩ | ⟨-, h⟩ | ⟨ha, h⟩ := hostWrite_cases a v s <;> rw [h]
  · exact consistent_issue hs v
  · exact consistent_writeStatus hs v
  · exact consistent_writeCtrl hs v
  · exact hs
  · exact consistent_writeData hs ha v

theorem consistent_hostRead (hs : s.Consistent) {a : PortAddr} (h : hostRead a s = .next t) : t.Consistent := by
  obtain ⟨v, rfl⟩ | ⟨-, rfl⟩ := hostRead_next h
  · exact { hs with }
  · exact { hs with }

/-- The outputs of a command are none of the fields that consistency speaks of, but H, which is written whole. -/
theorem WritesOutputs.consistent {i : Instr} {u : State} (h : WritesOutputs s i u) (hs : s.Consistent) :
    u.Consistent := by
  cases h with
  | nop | gfres | keyTail | st | sched => exact { hs with }
  | init | comp | block => exact { hs with h_written := by simp }

theorem consistent_exec {i : Instr} (hs : s.Consistent) (hwf : i.wellFormed = true) (hi : i ≠ .gfInv 0)
    (h : exec i s = .next t) : t.Consistent := by
  obtain ⟨u, n, hu, rfl⟩ := exec_writesOutputs hwf hi h
  exact consistent_retire { hu.consistent hs with }

theorem consistent_step (hs : s.Consistent) (h : step s = .next t) : t.Consistent := by
  obtain ⟨rest, ⟨-, rfl⟩ | ⟨i, hi, hexec⟩ | ⟨a, -, hread⟩ | ⟨a, v, -, rfl⟩ | ⟨-, rfl⟩⟩ := step_cases h
  · exact consistent_takeEvent hs rest
  · obtain ⟨hwf, hne⟩ := hs.pending_accepted hi
    exact consistent_exec (consistent_newChoice (consistent_takeEvent hs rest)) hwf hne hexec
  · exact consistent_hostRead (consistent_takeEvent hs rest) hread
  · exact consistent_hostWrite (consistent_newChoice (consistent_takeEvent hs rest)) a v
  · exact consistent_resetCore _

/-! ### Runs of the hardware (R25, R124) -/

theorem hostRead_next_of_drawAny (hu : s.unwritten = .drawAny) (a : PortAddr) : ∃ t, hostRead a s = .next t := by
  obtain ⟨v, -, h⟩ | ⟨-, h⟩ | ⟨-, hreport, -⟩ | ⟨-, -, h⟩ := hostRead_cases a s
  · exact ⟨_, h⟩
  · exact ⟨_, h⟩
  · simp [hu] at hreport
  · exact ⟨_, h⟩

theorem engineTurn_next_of_drawAny (hs : s.Consistent) (hu : s.unwritten = .drawAny) : ∃ t, engineTurn s = .next t := by
  cases he : s.engine with
  | idle => exact ⟨s, engineTurn_of_idle he⟩
  | busy i =>
    obtain ⟨hwf, hne⟩ := hs.pending_accepted he
    obtain ⟨t, ht, -⟩ := exec_completes (s := newChoice s) hwf hne (.inr hu)
    exact ⟨t, (engineTurn_of_busy he).trans ht⟩

/-- A step of the hardware from a consistent state answers a next state, whatever the event. -/
theorem step_next_of_drawAny (hs : s.Consistent) (hu : s.unwritten = .drawAny) : ∃ t, step s = .next t := by
  cases henv : s.env with
  | nil =>
    rw [step_of_nil henv]
    exact engineTurn_next_of_drawAny (consistent_takeEvent hs []) hu
  | cons e rest =>
    rw [step_of_cons henv]
    cases e with
    | read a => exact hostRead_next_of_drawAny (s := takeEvent rest s) hu a
    | write a v => exact ⟨_, rfl⟩
    | rst => exact ⟨_, rfl⟩
    | engine => exact engineTurn_next_of_drawAny (consistent_takeEvent hs rest) hu

end

end Sys2Proof.Machine

open Sys2Proof Sys2Proof.Machine

/-- Settles O55: each thing a step can do keeps the state consistent; the pending command is one that Issue accepted, so its
completion records no error. -/
theorem stepKeepsConsistency : Obligations.StepKeepsConsistency := by
  unfold Obligations.StepKeepsConsistency
  exact fun _ _ hs h => consistent_step hs h

/-- Settles O34: the written operands are all that a completion looks at, and it writes no error. -/
theorem acceptedCommandsCompleteWithoutError : Obligations.AcceptedCommandsCompleteWithoutError := by
  unfold Obligations.AcceptedCommandsCompleteWithoutError
  intro i s hwf hi hop
  obtain ⟨t, ht, hidle, hdone⟩ := exec_completes hwf hi (.inl hop)
  obtain ⟨-, -, -, herrcode, herrcmd, -⟩ := completionChangesOnlyItsOutputs i s t hwf hi ht
  exact ⟨t, ht, hidle, hdone, herrcode, herrcmd, fun code info => exec_withError code info hwf hi ht⟩

/-- Settles O36: a completion has its operands exactly where R129's are written; the treatment is no output of anything. -/
theorem unwrittenOperandIsReported : Obligations.UnwrittenOperandIsReported := by
  unfold Obligations.UnwrittenOperandIsReported
  exact ⟨fun _ _ hwf hu => (exec_fault_iff_not_operandsWritten hwf hu).symm, rfl, fun _ _ h => unwritten_of_step h⟩

/-- Settles O38: the write is met by Issue, whose first applicable check decides (R121). -/
theorem issueChecksInOrder : Obligations.IssueChecksInOrder := by
  unfold Obligations.IssueChecksInOrder
  intro s word rest henv
  refine ⟨fun herr => ?fault, fun herr hengine => ?busy, fun herr hidle => ⟨fun hd => ?badOpcode, fun hd => ?badOperand,
    fun hd => ?divZero, fun i hd hi => ?accepted⟩⟩
  case fault => exact (step_of_cmd_write henv).trans (congrArg _ (issue_of_error herr))
  case busy => exact (step_of_cmd_write henv).trans (congrArg _ (issue_of_busy herr hengine))
  case badOpcode => exact (step_of_cmd_write henv).trans (congrArg _ (issue_of_badOpcode herr hidle hd))
  case badOperand => exact (step_of_cmd_write henv).trans (congrArg _ (issue_of_badOperand herr hidle hd))
  case divZero => exact (step_of_cmd_write henv).trans (congrArg _ (issue_of_gfInv_zero herr hidle hd))
  case accepted => exact step_of_accepted_write henv herr hidle hd hi

/-- Settles O42: the acknowledge keeps the command pending, and its completion sets DONE after it. -/
theorem completionAfterAcknowledgeKeepsDone : Obligations.CompletionAfterAcknowledgeKeepsDone := by
  unfold Obligations.CompletionAfterAcknowledgeKeepsDone
  intro s t u v i rest hs hi henv hst htu
  obtain ⟨hwf, hne⟩ := hs.pending_accepted hi
  rw [step_of_status_write henv] at hst
  cases hst
  have hkeep := keepsPending_writeStatus v { s with env := .engine :: rest, rdata := none, draws := s.draws + 1 }
  rw [step_of_engine_turn_busy (.inl hkeep.env) (hkeep.engine.trans hi)] at htu
  obtain ⟨u', n, -, rfl⟩ := exec_writesOutputs hwf hne htu
  exact ⟨rfl, rfl⟩

/-- Settles O56: by induction on the number of steps, since the hardware's steps answer next states and keep both premises. -/
theorem hardwareRunsNeverStop : Obligations.HardwareRunsNeverStop := by
  unfold Obligations.HardwareRunsNeverStop
  intro s n hs hu
  induction n generalizing s with
  | zero => exact ⟨s, rfl⟩
  | succ n ih =>
    obtain ⟨t, ht⟩ := step_next_of_drawAny hs hu
    obtain ⟨u, hrun⟩ := ih t (consistent_step hs ht) ((unwritten_of_step ht).trans hu)
    exact ⟨u, (run_succ n ht).trans hrun⟩

/-- Settles O11: the forms that Issue rejects are the zero without an inverse and the index without a round key. -/
theorem rejectedOperandsRecordTheirError : Obligations.RejectedOperandsRecordTheirError := by
  unfold Obligations.RejectedOperandsRecordTheirError
  intro s n i
  rw [exec_gfInv_zero]
  refine ⟨fun herr => ?_, fun herr => ?_, fun hn hi => ?_⟩
  · rw [raiseError_of_noError _ _ _ herr]
  · rw [raiseError_of_error _ _ _ herr]
  · rw [exec_of_index_gt hn hi]
    exact ⟨fun herr => by rw [raiseError_of_noError _ _ _ herr], fun herr => by rw [raiseError_of_error _ _ _ herr]⟩

/-- Settles O31: the event and the end of the environment are the same turn of the engine. -/
theorem engineTurnRunsThePendingCommand : Obligations.EngineTurnRunsThePendingCommand := by
  unfold Obligations.EngineTurnRunsThePendingCommand
  intro s rest hturn
  exact ⟨fun i hi => step_of_engine_turn_busy hturn hi,
    fun hidle => (step_of_engine_turn hturn).trans (engineTurn_of_idle hidle)⟩

/-- Settles O32: Issue accepts the word, and the engine's turn finds its command pending. -/
theorem writtenWordIsAcceptedThenExecuted : Obligations.WrittenWordIsAcceptedThenExecuted := by
  unfold Obligations.WrittenWordIsAcceptedThenExecuted
  intro s word i rest henv hidle herr hd hi
  exact ⟨_, step_of_accepted_write henv herr hidle hd hi, rfl, step_of_engine_turn_busy (.inl rfl) rfl⟩

/-- Settles O33: the placed word's state is the accepted one with the engine's turn next. -/
theorem placedWordRunsNext : Obligations.PlacedWordRunsNext := by
  unfold Obligations.PlacedWordRunsNext
  intro s word i hd hi
  rw [withFetchWord_of_accepted hd hi]
  exact step_of_engine_turn_busy (.inl rfl) rfl
end

section
/-! The reset statements (70_reset_and_hazards.md): the values of the reset table and what the port reads of them (R136), and
the two resets, by the pin and by CTRL.SRST (R107, R135, R137). -/

namespace Sys2Proof.Machine

/-! ### The reset table (R136) -/

theorem getElem_reset_key (k : Fin 240) : State.reset.key[k] = none := getElem_unwrittenArray k.val k.isLt

theorem getElem_reset_st (k : Fin 16) : State.reset.st[k] = none := getElem_unwrittenArray k.val k.isLt

theorem getElem_reset_mblk (k : Fin 64) : State.reset.mblk[k] = none := getElem_unwrittenArray k.val k.isLt

theorem getElem_reset_w (t : Fin 64) : State.reset.w[t] = none := getElem_unwrittenArray t.val t.isLt

theorem getElem_reset_h (j : Fin 8) : State.reset.h[j] = some (ivRom j.val) :=
  (getElem_written iv j.val j.isLt).trans (congrArg some (getElem_iv j.val j.isLt))

theorem peek_status_reset : peek .status State.reset = .value 0 := rfl

theorem peek_ctrl_reset : peek .ctrl State.reset = .value 0 := rfl

/-- Any word of H can be read after reset: H is the one array that a reset writes. -/
theorem peek_h_reset (j : Fin 8) : peek (.h j) State.reset = .value (ivRom j.val) :=
  congrArg foundWord (getElem_reset_h j)

theorem ivRom_zero : ivRom 0 = 0x6a09e667 := rfl

/-! ### The two resets (R135, R107) -/

section
variable {s : State} {rest : List PortEvent}

/-- A clock edge with rst at 1 resets whatever is pending (R135, R137). -/
theorem step_of_rst (h : s.env = .rst :: rest) :
    step s = .next { State.reset with env := rest, draws := s.draws + 1, unwritten := s.unwritten } :=
  (step_of_cons h).trans (congrArg Host.Outcome.next (resetCore_of_no_rdata rfl))

/-- A write of CTRL with SRST at 1 is the same reset (R107). -/
theorem step_of_srst_write {v : Word} (h : s.env = .write 2 v :: rest) (hsrst : v.getLsbD 2 = true) :
    step s = .next { State.reset with env := rest, draws := s.draws + 1, unwritten := s.unwritten } :=
  (ctrlWriteActions s v rest h).1 hsrst

end

end Sys2Proof.Machine

open Sys2Proof Sys2Proof.Machine

/-- Settles O52: the registers hold the reset table's values by definition, irq, STATUS and CTRL are computed from them, and
the arrays are read element by element. -/
theorem resetState : Obligations.ResetState := by
  unfold Obligations.ResetState
  refine ⟨rfl, rfl, rfl, rfl, rfl, rfl, rfl, getElem_reset_key, getElem_reset_st, getElem_reset_mblk, getElem_reset_w,
    getElem_reset_h, ?irq, peek_status_reset, peek_ctrl_reset, ?readsIv⟩
  case irq => rfl
  case readsIv => exact (peek_h_reset 0).trans (congrArg ReadResult.value ivRom_zero)

/-- Settles O53: the pin and CTRL.SRST are one reset, which reads nothing of the core's own state. -/
theorem resetForgetsEverything : Obligations.ResetForgetsEverything := by
  unfold Obligations.ResetForgetsEverything
  rintro s e rest henv (rfl | ⟨v, hsrst, rfl⟩)
  · exact step_of_rst henv
  · exact step_of_srst_write henv hsrst

/-- Settles O54: LASTCMD is NOP's word, nothing is pending, no error is recorded, and H is written. -/
theorem resetIsConsistent : Obligations.ResetIsConsistent := by
  unfold Obligations.ResetIsConsistent
  exact reset_consistent
end
